-- ==== Sys2Proof/Word.lean ====
section
/-! DEFINITION. The unit of every field of every frame: one byte (00_scope.md R9, 20_memory.md R50). -/

namespace Sys2Proof

/-- A byte, bit 0 the least significant (R9). -/
abbrev Byte := BitVec 8

end Sys2Proof
end

