-- ==== Sys2Proof/Config.lean ====
section
/-! DEFINITION. The parameters of 00_scope.md R6 whose kind is "source" (constants of this hardware), the default of
the one marked "parameter" that a register holds, and the model's only free value. -/

namespace Sys2Proof.Config

/-- `HDR0`, first byte of every command frame (R6). -/
@[reducible, simp] def hdr0 : Byte := 0x02#8
/-- `HDR1`, second byte of every command frame (R6). -/
@[reducible, simp] def hdr1 : Byte := 0x00#8
/-- `PAYLOAD_MAX`, the greatest payload length ENC accepts (R6). The least, `PAYLOAD_MIN`, is 1. -/
@[reducible, simp] def payloadMax : Nat := 255
/-- `FRAME_OVERHEAD`, frame length minus payload length (R6). -/
@[reducible, simp] def frameOverhead : Nat := 4
/-- `ACK_LEN` (R6). -/
@[reducible, simp] def ackLen : Nat := 7
/-- `IMG_RESP_LEN` (R6). -/
@[reducible, simp] def imgRespLen : Nat := 10246
/-- `IMG_HDR_LEN` (R6). -/
@[reducible, simp] def imgHdrLen : Nat := 4
/-- `IMG_TRAILER_LEN` (R6). -/
@[reducible, simp] def imgTrailerLen : Nat := 2
/-- `WIDTH`, pixels a row (R6). -/
@[reducible, simp] def width : Nat := 64
/-- `HEIGHT`, rows (R6). -/
@[reducible, simp] def height : Nat := 80
/-- `NPIX`, that is `WIDTH * HEIGHT` (R6). -/
@[reducible, simp] def npix : Nat := 5120
/-- `RASTER_LEN`, that is `NPIX * PIX_BYTES` (R6). -/
@[reducible, simp] def rasterLen : Nat := 10240
/-- `TIMEOUT_MS`, the reset value of `TIMEOUT` (R6, R30). -/
@[reducible, simp] def timeoutMs : BitVec 32 := 1000#32

/-- What a read of the write-only register `CMD` returns: "no defined value" (10_state.md R31, "any value" in
93_implementation_defined.md U18). A free value (log 2): it has no body, so no proof can see one. It is applied to
`State.freeIdx`, which every event but a read advances. -/
opaque cmdReadValue : Nat → BitVec 2

end Sys2Proof.Config
end

