-- ==== Sys2Proof/Syntax.lean ====
section
/-! DEFINITION. The instructions: one constructor per row of spec/opcode_table.json. The FCE decodes no instruction
words of its own (30_encoding.md, head); its table holds the four operations a host starts through `CMD` and the
frames and responses on the wire. What a frame or response row does as an instruction is log 4. -/

namespace Sys2Proof

/-- The four command and response exchanges of CAPTURE, numbered 1 to 4 (00_scope.md R14, 43_capture.md R156). -/
inductive CaptureStep where
  | one | two | three | four
  deriving DecidableEq, Repr

/-- The formats of 30_encoding.md R80: operation code, command frame, acknowledgement response, image response,
sensor frame. -/
inductive Format where
  | op | cf | ar | ir | sf
  deriving DecidableEq, Repr

inductive Instr where
  /-- `ENC`, `CMD.OP = 0b00` (R85, R110). -/
  | enc
  /-- `ACK`, `CMD.OP = 0b01` (R85, R120). -/
  | ack
  /-- `IMG`, `CMD.OP = 0b10` (R85, R130, R134). -/
  | img
  /-- `CAPTURE`, `CMD.OP = 0b11` (R85, R160). -/
  | capture
  /-- `CMD_FRAME`: the command frame of a payload that is none of the four fixed ones (R81). -/
  | cmdFrame (payload : List Byte)
  /-- `STATUS_CHECK`: the frame of step 1 (R90). -/
  | statusCheck
  /-- `PREPARE_SENSOR`: the frame of step 2 (R90). -/
  | prepareSensor
  /-- `TRIGGER_CAPTURE`: the frame of step 3 (R90). -/
  | triggerCapture
  /-- `REQUEST_IMAGE`: the frame of step 4 (R90). -/
  | requestImage
  /-- `ACK_RESP`: seven raw bytes (R82). -/
  | ackResp (content : List Byte)
  /-- `IMG_RESP`: header, 5120 pixel pairs, trailer (R83). -/
  | imgResp (header pixels trailer : List Byte)
  /-- `SENSOR_FRAME`: the raster (R84). -/
  | sensorFrame (pixels : List Byte)
  deriving DecidableEq, Repr

end Sys2Proof
end

