-- ==== Sys2Proof/WellFormed.lean ====
section
/-! DEFINITION. Which terms of `Instr` are instructions: the length each format fixes, and the overlap of the generic
command frame with the four fixed frames. -/

namespace Sys2Proof

/-- The payloads of the four fixed commands (43_capture.md R156). -/
def fixedPayloads : List (List Byte) :=
  [[0x37#8, 0x01#8, 0x01#8, 0x01#8], [0x80#8, 0x02#8, 0x01#8], [0x82#8, 0x73#8, 0x01#8], [0x81#8]]

/-- A payload has 1 to 255 bytes (R13, R92). -/
def payloadOk (p : List Byte) : Bool := decide (1 ≤ p.length ∧ p.length ≤ Config.payloadMax)

def Instr.wellFormed : Instr → Bool
  | .enc => true
  | .ack => true
  | .img => true
  | .capture => true
  | .cmdFrame p => payloadOk p && !fixedPayloads.contains p
  | .statusCheck => true
  | .prepareSensor => true
  | .triggerCapture => true
  | .requestImage => true
  | .ackResp r => decide (r.length = Config.ackLen)
  | .imgResp h px t =>
      decide (h.length = Config.imgHdrLen ∧ px.length = Config.rasterLen ∧ t.length = Config.imgTrailerLen)
  | .sensorFrame px => decide (px.length = Config.rasterLen)

end Sys2Proof
end

