-- ==== Sys2Proof/Decode.lean ====
section
/-! DEFINITION. The decoder, total on any bytes of any format and rejecting by name, and after it the encoder, written
from the frame layouts of 30_encoding.md. The format is not in the bytes: a command frame of seven bytes and an
acknowledgement of seven bytes can be equal (95_test_vectors.md V22), so the place a word stands in names it. -/

namespace Sys2Proof

/-- The payload of a step of CAPTURE (43_capture.md R156). -/
def cmdPayload : CaptureStep → List Byte
  | .one => [0x37#8, 0x01#8, 0x01#8, 0x01#8]
  | .two => [0x80#8, 0x02#8, 0x01#8]
  | .three => [0x82#8, 0x73#8, 0x01#8]
  | .four => [0x81#8]

/-- The format in which a step's response is expected (43_capture.md R156). -/
def responseFormat : CaptureStep → Format
  | .one | .two | .three => .ar
  | .four => .ir

/-- Running exclusive-or of a byte sequence (00_scope.md R10). -/
def xorAll (bs : List Byte) : Byte := bs.foldl (· ^^^ ·) 0#8

/-- A well-formed command frame (30_encoding.md R96). -/
def isCommandFrame : List Byte → Bool
  | h0 :: h1 :: len :: rest =>
      h0 == Config.hdr0 && h1 == Config.hdr1 && len != 0#8 && rest.length == len.toNat + 1 && xorAll (len :: rest) == 0#8
  | _ => false

/-- Why a word is no instruction. -/
inductive DecodeError where
  /-- A `CMD` write is one code (R85). -/
  | opLength
  /-- `CMD` is two bits wide (R31). -/
  | opRange
  /-- A command frame has at least five bytes (R80, R96). -/
  | frameTooShort
  /-- Byte 0 is 0x02 (R81). -/
  | badHdr0
  /-- Byte 1 is 0x00 (R81). -/
  | badHdr1
  /-- No frame has `LEN = 0` (R93). -/
  | lenZero
  /-- The frame has `LEN + 4` bytes (R96). -/
  | lenMismatch
  /-- The exclusive-or of length, payload and checksum is zero (R96). -/
  | badChecksum
  /-- An acknowledgement has 7 bytes (R82). -/
  | ackLength
  /-- An image response has 10246 bytes (R83). -/
  | imageLength
  /-- A sensor frame has 10240 bytes (R84). -/
  | rasterLength
  deriving DecidableEq, Repr

/-- The row of a command frame, by its payload: the four fixed rows are instances of the generic one (R90, R91). -/
def frameInstr (p : List Byte) : Instr :=
  if p = cmdPayload .one then .statusCheck
  else if p = cmdPayload .two then .prepareSensor
  else if p = cmdPayload .three then .triggerCapture
  else if p = cmdPayload .four then .requestImage
  else .cmdFrame p

def decodeOp : List Byte → Except DecodeError Instr
  | [b] =>
      if b = 0#8 then .ok .enc
      else if b = 1#8 then .ok .ack
      else if b = 2#8 then .ok .img
      else if b = 3#8 then .ok .capture
      else .error .opRange
  | _ => .error .opLength

def decodeFrame : List Byte → Except DecodeError Instr
  | h0 :: h1 :: len :: rest =>
      if h0 ≠ Config.hdr0 then .error .badHdr0
      else if h1 ≠ Config.hdr1 then .error .badHdr1
      else if len = 0#8 then .error .lenZero
      else if rest.length ≠ len.toNat + 1 then .error .lenMismatch
      else if xorAll (len :: rest) ≠ 0#8 then .error .badChecksum
      else .ok (frameInstr (rest.take len.toNat))
  | _ => .error .frameTooShort

def decodeAckResp (r : List Byte) : Except DecodeError Instr :=
  if r.length = Config.ackLen then .ok (.ackResp r) else .error .ackLength

def decodeImgResp (r : List Byte) : Except DecodeError Instr :=
  if r.length = Config.imgRespLen then
    .ok (.imgResp (r.take Config.imgHdrLen) ((r.drop Config.imgHdrLen).take Config.rasterLen)
      (r.drop (Config.imgHdrLen + Config.rasterLen)))
  else .error .imageLength

def decodeSensorFrame (r : List Byte) : Except DecodeError Instr :=
  if r.length = Config.rasterLen then .ok (.sensorFrame r) else .error .rasterLength

/-- The instruction the bytes of a word of the given format stand for (30_encoding.md R80 to R85, R96). -/
def decode (f : Format) (bytes : List Byte) : Except DecodeError Instr :=
  match f with
  | .op => decodeOp bytes
  | .cf => decodeFrame bytes
  | .ar => decodeAckResp bytes
  | .ir => decodeImgResp bytes
  | .sf => decodeSensorFrame bytes

/-! ## The encoder -/

/-- `CKSUM`: the running exclusive-or over the length byte, then every payload byte in order; the header bytes do not
take part (30_encoding.md R87, 40_encode.md R111, 90_conflicts.md C1). -/
def checksum (p : List Byte) : Byte := p.foldl (· ^^^ ·) (BitVec.ofNat 8 p.length)

/-- The command frame of a payload (30_encoding.md R81, 20_memory.md R58). -/
def frameOf (p : List Byte) : List Byte :=
  [Config.hdr0, Config.hdr1, BitVec.ofNat 8 p.length] ++ p ++ [checksum p]

def Instr.format : Instr → Format
  | .enc | .ack | .img | .capture => .op
  | .cmdFrame _ | .statusCheck | .prepareSensor | .triggerCapture | .requestImage => .cf
  | .ackResp _ => .ar
  | .imgResp _ _ _ => .ir
  | .sensorFrame _ => .sf

/-- The bytes of an instruction, first on the wire first. -/
def encode : Instr → List Byte
  | .enc => [0#8]
  | .ack => [1#8]
  | .img => [2#8]
  | .capture => [3#8]
  | .cmdFrame p => frameOf p
  | .statusCheck => frameOf (cmdPayload .one)
  | .prepareSensor => frameOf (cmdPayload .two)
  | .triggerCapture => frameOf (cmdPayload .three)
  | .requestImage => frameOf (cmdPayload .four)
  | .ackResp r => r
  | .imgResp h px t => h ++ px ++ t
  | .sensorFrame px => px

/-! ## Words numbered as the table numbers them (log 21) -/

/-- The first `n` bytes of the number `w`, its low byte first. -/
def wordBytes : Nat → Nat → List Byte
  | 0, _ => []
  | n + 1, w => BitVec.ofNat 8 w :: wordBytes n (w / 256)

/-- Format and bytes of a table word: the length tells the operation codes and the two long formats; seven bytes are a
command frame where they are a well-formed one, and an acknowledgement otherwise; any other word is a command frame.
A word above `nbits` is zero, so a command frame the table gives only its header is continued by zeros. -/
def tableWord (nbits w : Nat) : Format × List Byte :=
  let n := (nbits + 7) / 8
  let bytes := wordBytes n w
  if n = 1 then (.op, bytes)
  else if n = Config.imgRespLen then (.ir, bytes)
  else if n = Config.rasterLen then (.sf, bytes)
  else if n = Config.ackLen ∧ isCommandFrame bytes = false then (.ar, bytes)
  else if n = 2 then (.cf, bytes ++ [0#8, 0#8])
  else (.cf, bytes)

def decodeTableWord (nbits w : Nat) : Option Instr :=
  match decode (tableWord nbits w).1 (tableWord nbits w).2 with
  | .ok i => some i
  | .error _ => none

end Sys2Proof
end

