-- ==== Sys2Proof/Machine/State.lean ====
section
/-! DEFINITION. The state of the FCE: the registers and buffers of 10_state.md R20 and the sequencer's phase of
43_capture.md R161; beside them the agents outside it as plain data (the host's pending events, the transport's answers
to come), the trace, and what the host observed. Then the reasons a step can stop, and the state after reset (R35). -/

namespace Sys2Proof.Machine

/-- The four byte-addressed spaces (20_memory.md R50); the wire is not addressable. -/
inductive Space where
  | pbuf | txbuf | rxbuf | imgbuf
  deriving DecidableEq, Repr

/-- One buffer: its written bytes by index, strictly rising; an index not listed holds no value (R55). -/
abbrev Buffer := List Host.Cell

/-- The four disjoint buffers (10_state.md R22). -/
structure Memory where
  pbuf : Buffer
  txbuf : Buffer
  rxbuf : Buffer
  imgbuf : Buffer
  deriving DecidableEq, Repr

/-- The states of a capture session (10_state.md R27, 43_capture.md R155). -/
inductive SState where
  | idle | statusChecked | sensorPrepared | captureTriggered | imageRequested | complete | failed
  deriving DecidableEq, Repr

/-- Second half of the sequencer's position: about to send, or sent and about to receive (43_capture.md R161). -/
inductive Phase where
  | send | recv
  deriving DecidableEq, Repr

/-- The five errors (60_exceptions.md R190); `timeout` is `NoResponse` under CAPTURE (R196). -/
inductive FceError where
  | encodingError | timeout | shortResponse | truncatedFrame | transportFailure
  deriving DecidableEq, Repr

/-- `STATUS.RESULT` (10_state.md R28). -/
inductive Result where
  | none | ok | err (e : FceError)
  deriving DecidableEq, Repr

/-- `STATUS` (10_state.md R20, R28); `errStep = none` is `ERRSTEP = 0`. -/
structure Status where
  busy : Bool
  result : Result
  errStep : Option CaptureStep
  txValid : Bool
  imgValid : Bool
  deriving DecidableEq, Repr

/-- The four operations of `CMD.OP` (10_state.md R31). -/
inductive Operation where
  | enc | ack | img | capture
  deriving DecidableEq, Repr

/-- What the transport answers to `TSend` (43_capture.md R150). -/
inductive SendOutcome where
  | ok | error
  deriving DecidableEq, Repr

/-- What the transport answers to `TRecv` (43_capture.md R151). -/
inductive RecvOutcome where
  | data (r : List Byte) | timeout | error
  deriving DecidableEq, Repr

/-- An entry of the trace (43_capture.md R163). -/
inductive Call where
  | send (frame : List Byte)
  | recv (expected : Nat) (timeout : BitVec 32)
  deriving DecidableEq, Repr

/-- The registers, in the order of their numbers 0 to 7 (10_state.md R20). -/
inductive Reg where
  | cfg | timeout | cmd | status | sstate | plen | txlen | rxlen
  deriving DecidableEq, Repr

/-- A host write. Lengths are presented as numbers and saturate (R21). A write to `CMD` is `HostEvent.issue .op`. -/
inductive HostWrite where
  | cfg (v : BitVec 32)
  | timeout (v : BitVec 32)
  | status (v : BitVec 32)
  | sstate (v : BitVec 32)
  | plen (n : Nat)
  | txlen (n : Nat)
  | rxlen (n : Nat)
  | buffer (sp : Space) (a : Nat) (bytes : List Byte)
  deriving DecidableEq, Repr

/-- A host read, of a register or of `n` bytes of a buffer from index `a`. -/
inductive HostRead where
  | reg (r : Reg)
  | buffer (sp : Space) (a n : Nat)
  deriving DecidableEq, Repr

/-- What the host does next (00_scope.md R7, 30_encoding.md R98; log 6). -/
inductive HostEvent where
  /-- Wait until the FCE is not busy. -/
  | await
  /-- Let a running CAPTURE take one turn, then go on with the next event. -/
  | turn
  /-- Issue an instruction word: for `op` a write to `CMD`; for a frame or response the operation with that operand. -/
  | issue (f : Format) (bytes : List Byte)
  /-- Hand the raster in `IMGBUF` to the sink (42_image.md R136, 70_reset_and_hazards.md R227). -/
  | handOver
  | write (w : HostWrite)
  | read (r : HostRead)
  /-- Anything but the sequencer uses the transport (70_reset_and_hazards.md R229). -/
  | useTransport
  | reset
  deriving DecidableEq, Repr

/-- What a host read returned. -/
inductive Observation where
  | word (v : Nat)
  | bytes (bs : List Byte)
  | raster (pixels : List Byte)
  deriving DecidableEq, Repr

structure State where
  /-- `CFG.LENIENT` (R29). -/
  lenient : Bool
  /-- `TIMEOUT` (R30). -/
  timeout : BitVec 32
  /-- `CMD.OP`, the code of the operation the host last started; write-only (R31). -/
  cmd : BitVec 2
  /-- `STATUS` (R28, R32). -/
  status : Status
  /-- `SSTATE` (R27). -/
  sstate : SState
  /-- The sequencer's phase (R161). -/
  phase : Phase
  /-- `PLEN` (R23). -/
  plen : BitVec 9
  /-- `TXLEN` (R24). -/
  txlen : BitVec 9
  /-- `RXLEN` (R25). -/
  rxlen : BitVec 14
  /-- `PBUF`, `TXBUF`, `RXBUF`, `IMGBUF` (R22). -/
  mem : Memory
  /-- The host's pending events, next first. -/
  host : List HostEvent
  /-- The transport's answers to the sends still to come (R152). -/
  sendAnswers : List SendOutcome
  /-- The transport's answers to the receives still to come (R152). -/
  recvAnswers : List RecvOutcome
  /-- The transport calls of the current or last CAPTURE, a ghost variable (R163). -/
  trace : List Call
  /-- What the host last read, or last handed to the sink. -/
  observed : Option Observation
  /-- The model's own counter, to which the free value of a read of `CMD` is applied (log 2). -/
  freeIdx : Nat
  deriving DecidableEq, Repr

/-- Reasons the model faults. Each is safe: the machine stops where the spec gives no value. -/
inductive Fault where
  /-- An operation or a host read would read a byte that holds no value: ENC of an unwritten `PBUF`, IMG of an
  unwritten `RXBUF`, a host read of an unwritten byte (R55: "a model must fault on it"). Safe. -/
  | noValue (sp : Space)
  /-- A host read or write outside a buffer's size (R51, U16). Safe. -/
  | outOfBounds (sp : Space)
  deriving DecidableEq, Repr

/-- Reasons the model refuses. Each is safe: the run is outside what the spec gives a meaning. -/
inductive Refusal where
  /-- An instruction without a meaning yet: no arm of exec answers with it. Safe. -/
  | notModelled (mnemonic : String)
  /-- An operation started while one is running (R228), by exec or the host port. Safe. -/
  | busyCommand
  /-- A host access to a register or buffer the running operation owns (R232, R234, D14, D23; log 12). Safe. -/
  | busyAccess
  /-- A host read of `TXBUF` or `TXLEN` with `TX_VALID = 0` (R24, R55). Safe. -/
  | noFrame
  /-- A read of `IMGBUF` with `IMG_VALID = 0`, by the host or in handing the raster over (R26, R55). Safe. -/
  | noRaster
  /-- Handing over bytes that are not the raster `IMGBUF` holds, by `SENSOR_FRAME` (R13: created only by IMG). Safe. -/
  | notTheRaster
  /-- A fixed frame run while a CAPTURE is running and is not about to send that frame (R161, R167). Safe. -/
  | notAtThisStep
  /-- A response run while a CAPTURE is running and waits for none (R167). Safe. -/
  | noReceiveOutstanding
  /-- Something else uses the transport during a CAPTURE (R229, U1). Safe. -/
  | transportContended
  /-- Reset while an operation runs (R220, U17). Safe. -/
  | resetWhileBusy
  /-- Reset after the first operation has ended: "a model offers reset only at launch" (R220). Safe. -/
  | resetAfterLaunch
  /-- The bytes issued are no instruction of their format (R92, R93, R96, R82 to R85). Safe. -/
  | undecodable (e : DecodeError)
  deriving DecidableEq, Repr

/-- Buffers as reset leaves them: no byte holds a value (R35). -/
def Memory.blank : Memory := { pbuf := [], txbuf := [], rxbuf := [], imgbuf := [] }

/-- `STATUS` after reset (R35). -/
def Status.blank : Status := { busy := false, result := .none, errStep := none, txValid := false, imgValid := false }

/-- The state after reset (10_state.md R35), with no host event pending and no transport answer given. `cmd`, `txlen`
and `phase` are DESIGN CHOICES (logs 1, 3, 7), and so is `freeIdx` (log 2). -/
def State.reset : State where
  lenient := false
  timeout := Config.timeoutMs
  cmd := 0
  status := Status.blank
  sstate := .idle
  phase := .send
  plen := 0
  txlen := 0
  rxlen := 0
  mem := Memory.blank
  host := []
  sendAnswers := []
  recvAnswers := []
  trace := []
  observed := none
  freeIdx := 0

end Sys2Proof.Machine
end

