-- ==== Sys2Proof/Machine/Flags.lean ====
section
/-! DEFINITION. The codes of the named values, `STATUS` and `CFG` as the numbers software reads, and how an operation's
end writes `STATUS` (10_state.md R20, R27, R28, R29; 60_exceptions.md R190, R197). -/

namespace Sys2Proof.Machine

/-- Register numbers (R20). -/
def Reg.number : Reg → Nat
  | .cfg => 0 | .timeout => 1 | .cmd => 2 | .status => 3 | .sstate => 4 | .plen => 5 | .txlen => 6 | .rxlen => 7

/-- Codes of `SSTATE` (R27). -/
def SState.code : SState → BitVec 3
  | .idle => 0 | .statusChecked => 1 | .sensorPrepared => 2 | .captureTriggered => 3 | .imageRequested => 4
  | .complete => 5 | .failed => 6

/-- Error codes (R190). -/
def FceError.code : FceError → BitVec 3
  | .encodingError => 2 | .timeout => 3 | .shortResponse => 4 | .truncatedFrame => 5 | .transportFailure => 6

/-- Codes of `STATUS.RESULT` (R28). -/
def Result.code : Result → BitVec 3
  | .none => 0 | .ok => 1 | .err e => e.code

/-- `STATUS.ERRSTEP`: 0, or the number of the step (R28). -/
def errStepCode : Option CaptureStep → BitVec 3
  | none => 0 | some .one => 1 | some .two => 2 | some .three => 3 | some .four => 4

/-- Codes of `CMD.OP` (R31, R85). -/
def Operation.code : Operation → BitVec 2
  | .enc => 0 | .ack => 1 | .img => 2 | .capture => 3

/-- `STATUS` as a number: `BUSY` bit 0, `RESULT` 3:1, `ERRSTEP` 6:4, `TX_VALID` 7, `IMG_VALID` 8 (R20). -/
def Status.word (st : Status) : BitVec 9 :=
  BitVec.ofBool st.imgValid ++ BitVec.ofBool st.txValid ++ errStepCode st.errStep ++ st.result.code ++ BitVec.ofBool st.busy

/-- `CFG` as read: bit 0 is `LENIENT`, all other bits read as 0 (R29). -/
def cfgWord (lenient : Bool) : BitVec 32 := (BitVec.ofBool lenient).setWidth 32

/-- `CFG` as written: bit 0 is taken, the others are ignored (R29). -/
def cfgLenient (v : BitVec 32) : Bool := v.getLsbD 0

/-- `STATUS` after an operation completes, valid bits apart (R28). -/
def Status.completed (st : Status) : Status := { st with busy := false, result := .ok, errStep := none }

/-- `STATUS` after an error: the code, the step, and the valid bit of the result that is absent: `TX_VALID` for ENC,
`IMG_VALID` for IMG and CAPTURE (R197 b, c, e). -/
def Status.failed (st : Status) (op : Operation) (e : FceError) (k : Option CaptureStep) : Status :=
  let st := { st with busy := false, result := .err e, errStep := k }
  match op with
  | .enc => { st with txValid := false }
  | .ack => st
  | .img | .capture => { st with imgValid := false }

/-- `STATUS` at the start of a CAPTURE: `BUSY` is set and `IMG_VALID` cleared (R28, R171). -/
def Status.capturing (st : Status) : Status := { st with busy := true, imgValid := false }

end Sys2Proof.Machine
end

