-- ==== Sys2Proof/Machine/Ops.lean ====
section
/-! DEFINITION. The shared operations: reading and writing buffers (00_scope.md R11, 20_memory.md R50, R51, R55), ending an
operation with an error (60_exceptions.md R197) or well, recording a transport call, and taking the next host event.
There is no return from an error: after it the FCE is idle and nothing is restored (R201). -/

namespace Sys2Proof.Machine

/-- What a step answers. -/
abbrev StepOutcome := Host.Outcome State Fault Refusal

/-! ## Buffers -/

/-- Size of a space in bytes (R50). -/
def Space.size : Space → Nat
  | .pbuf => 255 | .txbuf => 259 | .rxbuf => 10246 | .imgbuf => 10240

/-- Canonical form of a buffer of `size` bytes: indexes strictly rising, all inside. -/
abbrev Buffer.wf (size : Nat) (b : Buffer) : Prop := b.Pairwise (fun c d => c.1 < d.1) ∧ ∀ c ∈ b, c.1 < size

/-- Canonical form of the four buffers. -/
abbrev Memory.wf (m : Memory) : Prop :=
  Buffer.wf Space.pbuf.size m.pbuf ∧ Buffer.wf Space.txbuf.size m.txbuf ∧
  Buffer.wf Space.rxbuf.size m.rxbuf ∧ Buffer.wf Space.imgbuf.size m.imgbuf

/-- The byte at an index; `none` where none has been written (R55). -/
def Buffer.byte? : Buffer → Nat → Option Byte
  | [], _ => none
  | (k, v) :: b, a => if k = a then some v else Buffer.byte? b a

/-- The bytes of a run of cells, gathered onto `acc` in reverse; `none` if one of the `n` indexes from `a` on is missing. -/
def Buffer.gather : Buffer → Nat → Nat → List Byte → Option (List Byte)
  | _, _, 0, acc => some acc.reverse
  | [], _, _ + 1, _ => none
  | (k, v) :: b, a, n + 1, acc =>
      if k < a then Buffer.gather b a (n + 1) acc
      else if k = a then Buffer.gather b (a + 1) n (v :: acc)
      else none

/-- The `n` bytes from index `a` on, in ascending order; `none` if one of them has not been written (R11). -/
def Buffer.bytes? (b : Buffer) (a n : Nat) : Option (List Byte) := b.gather a n []

/-- The cells of a byte sequence laid from index `a` on. -/
def cellsFrom : Nat → List Byte → Buffer
  | _, [] => []
  | a, v :: vs => (a, v) :: cellsFrom (a + 1) vs

/-- A byte sequence written from index `a` on, all else kept (R11). -/
def Buffer.write (b : Buffer) (a : Nat) (vs : List Byte) : Buffer :=
  b.filter (fun c => decide (c.1 < a)) ++ cellsFrom a vs ++ b.filter (fun c => decide (a + vs.length ≤ c.1))

def Memory.buffer (m : Memory) : Space → Buffer
  | .pbuf => m.pbuf | .txbuf => m.txbuf | .rxbuf => m.rxbuf | .imgbuf => m.imgbuf

/-- `MemRead` of one byte. -/
def Memory.byte? (m : Memory) (sp : Space) (a : Nat) : Option Byte := (m.buffer sp).byte? a

/-- `MemRead(SPACE, a, n)` (R11). -/
def Memory.read? (m : Memory) (sp : Space) (a n : Nat) : Option (List Byte) := (m.buffer sp).bytes? a n

/-- `MemWrite(SPACE, a, n, v)` (R11): the other three buffers never change (R22). -/
def Memory.write (m : Memory) (sp : Space) (a : Nat) (vs : List Byte) : Memory :=
  match sp with
  | .pbuf => { m with pbuf := m.pbuf.write a vs }
  | .txbuf => { m with txbuf := m.txbuf.write a vs }
  | .rxbuf => { m with rxbuf := m.rxbuf.write a vs }
  | .imgbuf => { m with imgbuf := m.imgbuf.write a vs }

/-- `MemRead` and `MemWrite` are defined only inside the buffer (R51). -/
def Space.holds (sp : Space) (a n : Nat) : Bool := decide (a + n ≤ sp.size)

/-- A length presented to `PLEN` saturates at 511 (R21). -/
def saturate9 (n : Nat) : BitVec 9 := BitVec.ofNat 9 (min n 511)

/-- A length presented to `RXLEN` saturates at 16383 (R21, R171). -/
def saturate14 (n : Nat) : BitVec 14 := BitVec.ofNat 14 (min n 16383)

/-! ## Starting and ending an operation -/

/-- The host's write of an operation code to `CMD` (R31). -/
def State.latch (op : Operation) (s : State) : State := { s with cmd := op.code }

/-- ERROR ENTRY (R197), the one way an operation ends with an error: (a) nothing later of it happens; (b) `RESULT` and
`ERRSTEP`; (c) the result it would have produced is marked absent; (d) `SSTATE <- Failed` for CAPTURE; (e) `BUSY <- 0`.
Nothing else changes: no buffer is cleared, nothing is saved, control goes nowhere. -/
def State.raiseError (op : Operation) (e : FceError) (k : Option CaptureStep) (s : State) : State :=
  match op with
  | .enc | .ack | .img => { s with status := s.status.failed op e k }
  | .capture => { s with status := s.status.failed op e k, sstate := .failed, phase := .send }

/-- An operation completes: `RESULT <- OK`, `ERRSTEP <- 0`, `BUSY <- 0` (R28, R110, R120, R130). -/
def State.completeOp (s : State) : State := { s with status := s.status.completed }

/-- CAPTURE completes: as any operation, and `SSTATE <- Complete` (R160, R171). -/
def State.completeCapture (s : State) : State :=
  { s with status := s.status.completed, sstate := .complete, phase := .send }

/-- A transport call is appended to the trace (R163). -/
def State.record (c : Call) (s : State) : State := { s with trace := s.trace ++ [c] }

/-- The transport's answer to a send has been taken; `rest` is still to come (R152). -/
def State.takeSend (rest : List SendOutcome) (s : State) : State := { s with sendAnswers := rest }

/-- The transport's answer to a receive has been taken (R152). -/
def State.takeRecv (rest : List RecvOutcome) (s : State) : State := { s with recvAnswers := rest }

/-! ## Events -/

/-- A turn of the machine other than a host read: the free value of a read of `CMD` may be another from here on. -/
def State.tick (s : State) : State := { s with freeIdx := s.freeIdx + 1 }

/-- The head event is consumed. -/
def State.afterEvent (rest : List HostEvent) (s : State) : State := { s with host := rest, freeIdx := s.freeIdx + 1 }

/-- The registers and buffers take their reset values (R35, R220); the agents outside keep theirs. -/
def State.resetRegisters (s : State) : State :=
  { State.reset with
    host := s.host, sendAnswers := s.sendAnswers, recvAnswers := s.recvAnswers, observed := s.observed,
    freeIdx := s.freeIdx }

end Sys2Proof.Machine
end

