-- ==== Sys2Proof/Machine/Operands.lean ====
section
/-! DEFINITION. The operand forms: a payload in `PBUF` and `PLEN`, a response in `RXBUF` and `RXLEN`, the window of a
pixel, and the constants of the capture steps (10_state.md R23 to R26, 42_image.md R130, R134, 43_capture.md R156). -/

namespace Sys2Proof.Machine

/-- A payload is presented to ENC, by the host or by the sequencer (R23, R171): `PLEN` and the bytes of `PBUF`. A
payload longer than the buffer, which ENC rejects by its length, is presented as far as the buffer goes (R21). -/
def State.presentPayload (p : List Byte) (s : State) : State :=
  { s with plen := saturate9 p.length, mem := s.mem.write .pbuf 0 (p.take Space.pbuf.size) }

/-- ENC accepts a payload of 1 to 255 bytes (R92, R114). -/
def State.payloadLengthOk (s : State) : Bool := decide (1 ≤ s.plen.toNat ∧ s.plen.toNat ≤ Config.payloadMax)

/-- The payload `PBUF[0 .. PLEN)` (R23). -/
def State.payload? (s : State) : Option (List Byte) := s.mem.read? .pbuf 0 s.plen.toNat

/-- The completed ENC of payload `p`: `TXBUF`, `TXLEN`, `TX_VALID` (R110). -/
def State.writeFrame (p : List Byte) (s : State) : State :=
  { s with
    mem := s.mem.write .txbuf 0 (frameOf p)
    txlen := BitVec.ofNat 9 (p.length + Config.frameOverhead)
    status := { s.status with txValid := true } }

/-- A response is stored, by the host or by the sequencer: `RXLEN` counts all bytes, those beyond index 10245 are
dropped (R25, R171). -/
def State.storeResponse (r : List Byte) (s : State) : State :=
  { s with rxlen := saturate14 r.length, mem := s.mem.write .rxbuf 0 (r.take Space.rxbuf.size) }

/-- How many pixels of a response of `m` bytes have both bytes of their window, at most all 5120; they are the first
ones (R134). -/
def copiedPixels (m : Nat) : Nat := min Config.npix ((m - Config.imgHdrLen) / 2)

/-- The completed IMG: `IMGBUF` and `IMG_VALID` (R130). -/
def State.writeRaster (out : List Byte) (s : State) : State :=
  { s with mem := s.mem.write .imgbuf 0 out, status := { s.status with imgValid := true } }

/-- Length a step expects of its response (R156). -/
def expectedLen : CaptureStep → Nat
  | .one | .two | .three => Config.ackLen
  | .four => Config.imgRespLen

/-- `next(s)`, the session state after a validated acknowledgement (R160); step 4 has none and ends the session. -/
def nextState : CaptureStep → SState
  | .one => .statusChecked
  | .two => .sensorPrepared
  | .three => .captureTriggered
  | .four => .complete

/-- The step about to be sent at a position (`SSTATE`, S) of R161. -/
def sendStep? : SState → Option CaptureStep
  | .idle => some .one
  | .statusChecked => some .two
  | .sensorPrepared => some .three
  | .captureTriggered => some .four
  | .imageRequested | .complete | .failed => none

/-- The step whose response is awaited at a position (`SSTATE`, R) of R161. -/
def recvStep? : SState → Option CaptureStep
  | .idle => some .one
  | .statusChecked => some .two
  | .sensorPrepared => some .three
  | .imageRequested => some .four
  | .captureTriggered | .complete | .failed => none

/-! ## The raster as the consumer reads it (20_memory.md R53, R60; 42_image.md R136) -/

/-- Pixel `i` of a raster as a number, high byte first. -/
def pixelValue (out : List Byte) (i : Nat) : Nat := 256 * (out.getD (2 * i) 0#8).toNat + (out.getD (2 * i + 1) 0#8).toNat

/-- Row `r`, column `c` of a raster, row-major. -/
def pix (out : List Byte) (r c : Nat) : Nat := pixelValue out (Config.width * r + c)

end Sys2Proof.Machine
end

