-- ==== Sys2Proof/Machine/Codec.lean ====
section
/-! DEFINITION. The codec as the spec first gives it: three pure functions of a byte sequence, usable with no device and
no session (40_encode.md R110, R113; 41_ack.md R120, R123; 42_image.md R130, R134, R138). The meanings of the families
are their register views; that the two agree is stated, not assumed. -/

namespace Sys2Proof.Machine

/-- `encodeCommand` (R110). -/
def encodeCommand (p : List Byte) : Except FceError (List Byte) :=
  if p.length = 0 ∨ Config.payloadMax < p.length then .error .encodingError else .ok (frameOf p)

/-- `decodeAcknowledgement` (R120): the length and nothing else. -/
def decodeAcknowledgement (r : List Byte) : Except FceError Unit :=
  if r.length = Config.ackLen then .ok () else .error .shortResponse

/-- The two bytes of a pixel of the raster: its window at `off`, where both bytes of the window exist, zeros otherwise
(R134). -/
def windowOrZero (r : List Byte) (off : Nat) : List Byte :=
  match r[off]?, r[off + 1]? with
  | some hi, some lo => [hi, lo]
  | _, _ => [0#8, 0#8]

/-- The raster of a response, pixel by pixel in ascending order (R130, R134). -/
def unpackImage (r : List Byte) : List Byte :=
  (List.range Config.npix).flatMap (fun i => windowOrZero r (Config.imgHdrLen + 2 * i))

/-- `decodeImageResponse`, strict or lenient (R130, R131, R134, R139). -/
def decodeImageResponse (lenient : Bool) (r : List Byte) : Except FceError (List Byte) :=
  if lenient = false ∧ r.length ≠ Config.imgRespLen then .error .truncatedFrame else .ok (unpackImage r)

end Sys2Proof.Machine
end

