-- ==== Sys2Proof/Machine/Encoder.lean ====
section
/-! DEFINITION. The encoder family: ENC and the generic command frame (40_encode.md, 30_encoding.md R81). -/

namespace Sys2Proof.Machine

/-- ENC of the operand in `PBUF` and `PLEN`, the FCE not busy (R110, R114): the length is checked first, and a payload
of a wrong length is not read. -/
def encodeOperand (s : State) : StepOutcome :=
  if s.payloadLengthOk then
    match s.payload? with
    | none => .fault (.noValue .pbuf)
    | some p => .next ((s.latch .enc).writeFrame p).completeOp
  else .next ((s.latch .enc).raiseError .enc .encodingError none)

/-- The operation `ENC <payload>` (R98): the payload is presented, then ENC is started. -/
def encodePayload (p : List Byte) (s : State) : StepOutcome := encodeOperand (s.presentPayload p)

/-- `ENC` (R110); refused while an operation runs (R228). -/
def execEnc (s : State) : StepOutcome :=
  if s.status.busy then .refused .busyCommand else encodeOperand s

/-- `CMD_FRAME` (R81): a frame is never constructed but by ENC (R13, R24), so this is the operation `ENC <payload>`
(log 4). -/
def execCmdFrame (p : List Byte) (s : State) : StepOutcome :=
  if s.status.busy then .refused .busyCommand else encodePayload p s

end Sys2Proof.Machine
end

