-- ==== Sys2Proof/Machine/Image.lean ====
section
/-! DEFINITION. The image unpacker: IMG in both modes, and the raster it leaves (42_image.md). -/

namespace Sys2Proof.Machine

/-- Is the response rejected: in strict mode, whenever its length is not 10246 (R131, R139). -/
def State.imageRejected (s : State) : Bool := !s.lenient && decide (s.rxlen.toNat ≠ Config.imgRespLen)

/-- The raster of the response in `RXBUF`: the windows that exist are copied unchanged and the rest is zero (R130,
R134, R138); nothing else of `RXBUF` is read (R135, R137). `none` where a byte to be copied was never written (R55). -/
def State.rasterOfResponse? (s : State) : Option (List Byte) :=
  let n := 2 * copiedPixels s.rxlen.toNat
  (s.mem.read? .rxbuf Config.imgHdrLen n).map (· ++ List.replicate (Config.rasterLen - n) 0#8)

/-- IMG of the operand in `RXBUF`, `RXLEN`, the FCE not busy (R130, R131, R134). -/
def unpackOperand (s : State) : StepOutcome :=
  if s.imageRejected then .next ((s.latch .img).raiseError .img .truncatedFrame none)
  else
    match s.rasterOfResponse? with
    | none => .fault (.noValue .rxbuf)
    | some out => .next ((s.latch .img).writeRaster out).completeOp

/-- `IMG` (R130, R134); refused while an operation runs (R228). -/
def execImg (s : State) : StepOutcome :=
  if s.status.busy then .refused .busyCommand else unpackOperand s

/-- The raster `IMGBUF` holds, where `IMG_VALID = 1` (R26). -/
def State.raster? (s : State) : Option (List Byte) :=
  if s.status.imgValid then s.mem.read? .imgbuf 0 Config.rasterLen else none

/-- Are two byte sequences the same, byte by byte? -/
def sameBytes : List Byte → List Byte → Bool
  | [], [] => true
  | v :: vs, w :: ws => if v = w then sameBytes vs ws else false
  | _, _ => false

def sameRaster : Option (List Byte) → List Byte → Bool
  | some out, px => sameBytes out px
  | none, _ => false

/-- `SENSOR_FRAME` (R84): the raster IMG produced is handed to the sink (R136, R227 d and e; log 4). Refused while an
operation runs (R232), while there is none (R55), and for bytes that are not it. -/
def execSensorFrame (px : List Byte) (s : State) : StepOutcome :=
  if s.status.busy then .refused .busyAccess
  else if s.status.imgValid = false then .refused .noRaster
  else if sameRaster s.raster? px then .next { s with observed := some (.raster px) }
  else .refused .notTheRaster

end Sys2Proof.Machine
end

