-- ==== Sys2Proof/Machine/Validator.lean ====
section
/-! DEFINITION. The response validator: ACK (41_ack.md). -/

namespace Sys2Proof.Machine

/-- The verdict on an acknowledgement, from `RXLEN` alone (R120, R121). -/
def State.ackOk (s : State) : Bool := decide (s.rxlen.toNat = Config.ackLen)

/-- ACK of the operand in `RXLEN`, the FCE not busy (R120). -/
def validateOperand (s : State) : StepOutcome :=
  if s.ackOk then .next (s.latch .ack).completeOp
  else .next ((s.latch .ack).raiseError .ack .shortResponse none)

/-- `ACK` (R120); refused while an operation runs (R228). -/
def execAck (s : State) : StepOutcome :=
  if s.status.busy then .refused .busyCommand else validateOperand s

end Sys2Proof.Machine
end

