-- ==== Sys2Proof/Machine/Sequencer.lean ====
section
/-! DEFINITION. The sequencer: CAPTURE as the transition table of 43_capture.md R161, one transport call a step, and with
it the meanings of the fixed frames (the send halves) and of the two responses (the receive halves). -/

namespace Sys2Proof.Machine

/-- A fresh session (R160, R169, R171): whatever `SSTATE` was, nothing of an earlier session is kept. -/
def State.startSession (s : State) : State :=
  { s with cmd := Operation.capture.code, status := s.status.capturing, sstate := .idle, phase := .send, trace := [] }

/-- A step of the session fails (R160 `fail`, R197). -/
def State.failStep (e : FceError) (k : CaptureStep) (s : State) : State := s.raiseError .capture e (some k)

/-- The step's frame is encoded and the call made (R157 1 and 2, R171). -/
def State.callSend (k : CaptureStep) (s : State) : State :=
  ((s.presentPayload (cmdPayload k)).writeFrame (cmdPayload k)).record (.send (frameOf (cmdPayload k)))

/-- The step's send has been answered `Ok`: its receive is next, and at step 4 the image has been requested (R155,
R160). -/
def State.sent (k : CaptureStep) (s : State) : State :=
  match k with
  | .one | .two | .three => { s with phase := .recv }
  | .four => { s with sstate := .imageRequested, phase := .recv }

/-- The send half of step `k`, with the transport's next answer (R161). An unanswered call leaves the machine as it is
(log 5). -/
def transmit (k : CaptureStep) (s : State) : StepOutcome :=
  match s.sendAnswers with
  | [] => .next s
  | .ok :: rest => .next (((s.takeSend rest).callSend k).sent k)
  | .error :: rest => .next (((s.takeSend rest).callSend k).failStep .transportFailure k)

/-- The step's receive is made, with the expected length and `TIMEOUT` (R151, R157 3). -/
def State.callRecv (k : CaptureStep) (s : State) : State := s.record (.recv (expectedLen k) s.timeout)

/-- The receive half of step `k` on an outcome with no data (R161, R162, R164). -/
def State.recvFailed (e : FceError) (k : CaptureStep) (s : State) : State := (s.callRecv k).failStep e k

/-- A validated acknowledgement: the next state, about to send (R160, R161). -/
def State.advance (k : CaptureStep) (s : State) : State := { s with sstate := nextState k, phase := .send }

/-- Validation of the stored response of step `k` (R157 4 and 5): steps 1 to 3 by ACK, step 4 by IMG in the current
mode (R174). -/
def validateStep (k : CaptureStep) (s : State) : StepOutcome :=
  match k with
  | .one | .two | .three =>
      if s.ackOk then .next (s.advance k) else .next (s.failStep .shortResponse k)
  | .four =>
      if s.imageRejected then .next (s.failStep .truncatedFrame .four)
      else
        match s.rasterOfResponse? with
        | none => .fault (.noValue .rxbuf)
        | some out => .next (s.writeRaster out).completeCapture

/-- The receive half of step `k` on `Data(r)` (R157, R161, R171). -/
def receiveData (k : CaptureStep) (r : List Byte) (s : State) : StepOutcome :=
  validateStep k ((s.callRecv k).storeResponse r)

/-- `CAPTURE` (R160): the session starts; its transport calls are the machine's next steps. Refused while an operation
runs (R228). -/
def execCapture (s : State) : StepOutcome :=
  if s.status.busy then .refused .busyCommand else .next s.startSession

/-- The frame of step `k`: sent by the sequencer where it is at that step (R161); issued by the host while no operation
runs, the operation `ENC <payload>` (R98, R230; log 4). -/
def runFrame (k : CaptureStep) (s : State) : StepOutcome :=
  if s.status.busy then
    if s.phase = .send ∧ sendStep? s.sstate = some k then transmit k s else .refused .notAtThisStep
  else encodePayload (cmdPayload k) s

/-- `STATUS_CHECK` (R90, R161). -/
def execStatusCheck (s : State) : StepOutcome := runFrame .one s

/-- `PREPARE_SENSOR` (R90, R161). -/
def execPrepareSensor (s : State) : StepOutcome := runFrame .two s

/-- `TRIGGER_CAPTURE` (R90, R161). -/
def execTriggerCapture (s : State) : StepOutcome := runFrame .three s

/-- `REQUEST_IMAGE` (R90, R161). -/
def execRequestImage (s : State) : StepOutcome := runFrame .four s

/-- A response arriving while a CAPTURE runs: it is the data of the receive outstanding (R161); without one there is
none (R167). -/
def receiveOutstanding (r : List Byte) (s : State) : StepOutcome :=
  match s.phase, recvStep? s.sstate with
  | .recv, some k => receiveData k r s
  | .recv, none => .refused .noReceiveOutstanding
  | .send, _ => .refused .noReceiveOutstanding

/-- `ACK_RESP` (R82): the data of the sequencer's receive (R161); issued by the host while no operation runs, the
operation `ACK <7 bytes>` (R98; log 4). -/
def execAckResp (r : List Byte) (s : State) : StepOutcome :=
  if s.status.busy then receiveOutstanding r s else validateOperand (s.storeResponse r)

/-- `IMG_RESP` (R83): the data of the sequencer's receive (R161); issued by the host while no operation runs, the
operation `IMG <bytes>` (R98; log 4). -/
def execImgResp (h px t : List Byte) (s : State) : StepOutcome :=
  if s.status.busy then receiveOutstanding (h ++ px ++ t) s else unpackOperand (s.storeResponse (h ++ px ++ t))

end Sys2Proof.Machine
end

