-- ==== Sys2Proof/Machine/Dispatch.lean ====
section
/-! DEFINITION. The meaning of each instruction, by direct call. -/

namespace Sys2Proof.Machine

def exec (i : Instr) (s : State) : Host.Outcome State Fault Refusal :=
  match i with
  | .enc => Sys2Proof.Machine.execEnc s
  | .ack => Sys2Proof.Machine.execAck s
  | .img => Sys2Proof.Machine.execImg s
  | .capture => Sys2Proof.Machine.execCapture s
  | .cmdFrame p => Sys2Proof.Machine.execCmdFrame p s
  | .statusCheck => Sys2Proof.Machine.execStatusCheck s
  | .prepareSensor => Sys2Proof.Machine.execPrepareSensor s
  | .triggerCapture => Sys2Proof.Machine.execTriggerCapture s
  | .requestImage => Sys2Proof.Machine.execRequestImage s
  | .ackResp r => Sys2Proof.Machine.execAckResp r s
  | .imgResp h px t => Sys2Proof.Machine.execImgResp h px t s
  | .sensorFrame px => Sys2Proof.Machine.execSensorFrame px s

end Sys2Proof.Machine
end

