-- ==== Sys2Proof/Machine/HostPort.lean ====
section
/-! DEFINITION. The host's accesses that are no instructions: register and buffer writes and reads, reset, and the use of
the transport by anything but the sequencer (10_state.md R29 to R32, 20_memory.md R51, R55, 70_reset_and_hazards.md R220,
R229, R232, R234). -/

namespace Sys2Proof.Machine

/-- A host write of a buffer: `PBUF` and `RXBUF` while not busy (R232); the host cannot write `TXBUF` and `IMGBUF`, so a
write inside them changes nothing (R20, R24, R26; log 11). Outside its bounds no buffer is written: it faults (R51, U16;
log 9). -/
def hostWriteBuffer (sp : Space) (a : Nat) (bytes : List Byte) (s : State) : StepOutcome :=
  match sp with
  | .txbuf | .imgbuf => if sp.holds a bytes.length then .next s else .fault (.outOfBounds sp)
  | .pbuf | .rxbuf =>
      if s.status.busy then .refused .busyAccess
      else if sp.holds a bytes.length then .next { s with mem := s.mem.write sp a bytes }
      else .fault (.outOfBounds sp)

/-- A host write. `CFG`, `TIMEOUT`, `PLEN`, `RXLEN` while not busy (R29 to R32, R232, R234); a write to `STATUS` is
ignored (R32), and so is one to the read-only `SSTATE` and `TXLEN` (log 11). -/
def hostWrite (w : HostWrite) (s : State) : StepOutcome :=
  match w with
  | .cfg v => if s.status.busy then .refused .busyAccess else .next { s with lenient := cfgLenient v }
  | .timeout v => if s.status.busy then .refused .busyAccess else .next { s with timeout := v }
  | .status _ => .next s
  | .sstate _ => .next s
  | .plen n => if s.status.busy then .refused .busyAccess else .next { s with plen := saturate9 n }
  | .txlen _ => .next s
  | .rxlen n => if s.status.busy then .refused .busyAccess else .next { s with rxlen := saturate14 n }
  | .buffer sp a bytes => hostWriteBuffer sp a bytes s

/-- A read returns a value and changes nothing (R57); what it returned is kept for the host. -/
def State.observe (o : Observation) (s : State) : State := { s with observed := some o }

/-- A host read of a register. `STATUS`, `CFG`, `TIMEOUT` at any time; `SSTATE`, `PLEN`, `RXLEN` while not busy (R32, D14;
log 12); `TXLEN` while not busy and `TX_VALID = 1` (R24, R232); `CMD` is write-only and gives a free value (R31, U18;
log 2). -/
def hostReadReg (r : Reg) (s : State) : StepOutcome :=
  match r with
  | .cfg => .next (s.observe (.word (cfgWord s.lenient).toNat))
  | .timeout => .next (s.observe (.word s.timeout.toNat))
  | .cmd => .next (s.observe (.word (Config.cmdReadValue s.freeIdx).toNat))
  | .status => .next (s.observe (.word s.status.word.toNat))
  | .sstate => if s.status.busy then .refused .busyAccess else .next (s.observe (.word s.sstate.code.toNat))
  | .plen => if s.status.busy then .refused .busyAccess else .next (s.observe (.word s.plen.toNat))
  | .txlen =>
      if s.status.busy then .refused .busyAccess
      else if s.status.txValid then .next (s.observe (.word s.txlen.toNat))
      else .refused .noFrame
  | .rxlen => if s.status.busy then .refused .busyAccess else .next (s.observe (.word s.rxlen.toNat))

/-- The bytes read, once the access is allowed: a byte that holds no value faults (R55). -/
def readBytes (sp : Space) (a n : Nat) (s : State) : StepOutcome :=
  match s.mem.read? sp a n with
  | none => .fault (.noValue sp)
  | some bs => .next (s.observe (.bytes bs))

/-- A host read of a buffer: refused while busy (R232; log 12) and of a result whose valid bit is 0 (R55); out of bounds
it faults (R51); the frame is `TXBUF[0 .. TXLEN)` and the bytes past it hold no value (R24; log 13). -/
def hostReadBuffer (sp : Space) (a n : Nat) (s : State) : StepOutcome :=
  if s.status.busy then .refused .busyAccess
  else if sp.holds a n = false then .fault (.outOfBounds sp)
  else
    match sp with
    | .pbuf => readBytes .pbuf a n s
    | .rxbuf => readBytes .rxbuf a n s
    | .txbuf =>
        if s.status.txValid = false then .refused .noFrame
        else if a + n ≤ s.txlen.toNat then readBytes .txbuf a n s
        else .fault (.noValue .txbuf)
    | .imgbuf => if s.status.imgValid = false then .refused .noRaster else readBytes .imgbuf a n s

def hostRead (r : HostRead) (s : State) : StepOutcome :=
  match r with
  | .reg r => hostReadReg r s
  | .buffer sp a n => hostReadBuffer sp a n s

/-- Reset, offered only at launch, before the first operation has ended (R220; log 15). -/
def hostReset (s : State) : StepOutcome :=
  if s.status.busy then .refused .resetWhileBusy
  else if s.status.result = .none then .next s.resetRegisters
  else .refused .resetAfterLaunch

/-- Something other than the sequencer sends or receives: during a CAPTURE the run is refused (R229, U1); otherwise the
FCE takes no part (R230, 95_test_vectors.md P5). -/
def transportUsed (s : State) : StepOutcome :=
  if s.status.busy then .refused .transportContended else .next s

end Sys2Proof.Machine
end

