-- ==== Sys2Proof/Machine/Fetch.lean ====
section
/-! DEFINITION. Where the next instruction comes from (log 6): the word the host issues, the raster it hands over, the
frame the sequencer is to send (its fixed payload through ENC), or the response the transport delivers. A turn that
runs no instruction answers its own outcome. -/

namespace Sys2Proof.Machine

/-- Either a decoded instruction and the state to run it in, or the outcome of a turn that runs none. -/
abbrev Fetched := Except StepOutcome (Instr × State)

/-- The instruction in a word, run in `s`; a word that is none is refused by name. -/
def fetchWord (f : Format) (bytes : List Byte) (s : State) : Fetched :=
  match decode f bytes with
  | .ok i => .ok (i, s)
  | .error e => .error (.refused (.undecodable e))

/-- The sequencer about to send (R161): the frame of its step, once the transport answers (log 5). From `Complete` and
`Failed` it takes no step. -/
def fetchSend (s : State) : Fetched :=
  match sendStep? s.sstate, s.sendAnswers with
  | some k, _ :: _ => fetchWord .cf (frameOf (cmdPayload k)) s.tick
  | some _, [] => .error (.next s)
  | none, _ => .error (.next s)

/-- The sequencer waiting for a response (R161): `Data` of the expected format is that response's instruction; data of
another length goes the same way without being one (R153); `Timeout` and `Error` end the session (R162, R164). -/
def fetchRecv (s : State) : Fetched :=
  match recvStep? s.sstate, s.recvAnswers with
  | none, _ => .error (.next s)
  | some _, [] => .error (.next s)
  | some k, .timeout :: rest => .error (.next ((s.tick.takeRecv rest).recvFailed .timeout k))
  | some k, .error :: rest => .error (.next ((s.tick.takeRecv rest).recvFailed .transportFailure k))
  | some k, .data r :: rest =>
      match decode (responseFormat k) r with
      | .ok i => .ok (i, s.tick.takeRecv rest)
      | .error _ => .error (receiveData k r (s.tick.takeRecv rest))

/-- The turn of the sequencer while the host waits: it moves only while a CAPTURE runs (R161, R209). -/
def sequencerTurn (s : State) : Fetched :=
  if s.status.busy then
    match s.phase with
    | .send => fetchSend s
    | .recv => fetchRecv s
  else .error (.next s)

/-- The raster in `IMGBUF` as a word (R136, R227). -/
def fetchRaster (s : State) : Fetched :=
  if s.status.busy then .error (.refused .busyAccess)
  else if s.status.imgValid = false then .error (.refused .noRaster)
  else
    match s.mem.read? .imgbuf 0 Config.rasterLen with
    | none => .error (.fault (.noValue .imgbuf))
    | some px => fetchWord .sf px s

/-- The next turn: the host's head event, or the sequencer's turn where the host waits. -/
def fetch (s : State) : Fetched :=
  match s.host with
  | [] => sequencerTurn s
  | .await :: rest => if s.status.busy then sequencerTurn s else .error (.next (s.afterEvent rest))
  | .turn :: rest => sequencerTurn { s with host := rest }
  | .issue f bytes :: rest =>
      if s.status.busy then .error (.refused .busyCommand) else fetchWord f bytes (s.afterEvent rest)
  | .handOver :: rest => fetchRaster (s.afterEvent rest)
  | .write w :: rest => .error (hostWrite w (s.afterEvent rest))
  | .read r :: rest => .error (hostRead r { s with host := rest })
  | .useTransport :: rest => .error (transportUsed (s.afterEvent rest))
  | .reset :: rest => .error (hostReset (s.afterEvent rest))

/-- A word placed where the next turn fetches it (log 6, log 21): the raster's place is `IMGBUF`; every other word is the
host's next event. Both need the FCE not busy. -/
def State.placeWord (f : Format) (bytes : List Byte) (s : State) : State :=
  match f with
  | .sf =>
      { s with
        status := { s.status with busy := false, imgValid := true }
        mem := s.mem.write .imgbuf 0 bytes
        host := .handOver :: s.host }
  | .op | .cf | .ar | .ir =>
      { s with status := { s.status with busy := false }, host := .issue f bytes :: s.host }

end Sys2Proof.Machine
end

