-- ==== Sys2Proof/Safety.lean ====
section
/-! DEFINITION. The terms claims are stated in: when the host waits, the frames and the full trace written out from the
spec, CAPTURE as the pseudocode of 43_capture.md R160, and the invariants of a run. Nothing here is used by the machine. -/

namespace Sys2Proof.Machine

/-- The host waits: no event is pending, or it awaits the end of the running operation (log 6). -/
def State.HostWaits (s : State) : Prop := s.host = [] ∨ ∃ rest, s.host = .await :: rest

/-- The sequencer has the turn, and `h` are the host's events after it: the host waits, or lets it move once (log 6). -/
def State.SequencerMoves (s : State) (h : List HostEvent) : Prop := s.HostWaits ∧ h = s.host ∨ s.host = .turn :: h

/-- The frame of each step on the wire, as 30_encoding.md R90 writes it out. -/
def wireFrame : CaptureStep → List Byte
  | .one => [0x02#8, 0x00#8, 0x04#8, 0x37#8, 0x01#8, 0x01#8, 0x01#8, 0x32#8]
  | .two => [0x02#8, 0x00#8, 0x03#8, 0x80#8, 0x02#8, 0x01#8, 0x80#8]
  | .three => [0x02#8, 0x00#8, 0x03#8, 0x82#8, 0x73#8, 0x01#8, 0xF3#8]
  | .four => [0x02#8, 0x00#8, 0x01#8, 0x81#8, 0x80#8]

/-- The fixed-frame instruction of each step. -/
def stepInstr : CaptureStep → Instr
  | .one => .statusCheck
  | .two => .prepareSensor
  | .three => .triggerCapture
  | .four => .requestImage

/-- The list of R163 of which every trace is an initial part, with `T = TIMEOUT`. -/
def fullTrace (T : BitVec 32) : List Call :=
  [.send (wireFrame .one), .recv 7 T, .send (wireFrame .two), .recv 7 T,
   .send (wireFrame .three), .recv 7 T, .send (wireFrame .four), .recv 10246 T]

/-! ## Frames -/

/-- `CFG` and `TIMEOUT` are as before. -/
def State.SameConfig (s t : State) : Prop := t.lenient = s.lenient ∧ t.timeout = s.timeout

/-- The session is as before: `SSTATE`, phase and trace. -/
def State.SameSession (s t : State) : Prop := t.sstate = s.sstate ∧ t.phase = s.phase ∧ t.trace = s.trace

/-- The agents outside the FCE are as before: pending events, transport answers, what the host observed; and with them
the model's own counter. -/
def State.SameOutside (s t : State) : Prop :=
  t.host = s.host ∧ t.sendAnswers = s.sendAnswers ∧ t.recvAnswers = s.recvAnswers ∧ t.observed = s.observed ∧
  t.freeIdx = s.freeIdx

/-- Every byte of every buffer reads as before but those at indexes below `n` of the space `sp`. -/
def Memory.SameBut (m m' : Memory) (sp : Space) (n : Nat) : Prop :=
  ∀ sq x, ¬ (sq = sp ∧ x < n) → m'.byte? sq x = m.byte? sq x

/-- Every byte of every buffer reads as before. -/
def Memory.Same (m m' : Memory) : Prop := ∀ sq x, m'.byte? sq x = m.byte? sq x

/-! ## The table of R161 -/

/-- Send rows: the state before, the step, the state after `Ok`. -/
def sendRows : List (SState × CaptureStep × SState) :=
  [(.idle, .one, .idle), (.statusChecked, .two, .statusChecked), (.sensorPrepared, .three, .sensorPrepared),
   (.captureTriggered, .four, .imageRequested)]

/-- Receive rows of steps 1 to 3: the state before, the step, the state after seven bytes. -/
def ackRows : List (SState × CaptureStep × SState) :=
  [(.idle, .one, .statusChecked), (.statusChecked, .two, .sensorPrepared), (.sensorPrepared, .three, .captureTriggered)]

/-- Every position in which a response is awaited, with its step. -/
def recvRows : List (SState × CaptureStep) :=
  [(.idle, .one), (.statusChecked, .two), (.sensorPrepared, .three), (.imageRequested, .four)]

/-- The session is over, failed with `CaptureError(e, k)` (R161, R197). -/
def State.FailedWith (t : State) (e : FceError) (k : CaptureStep) : Prop :=
  t.sstate = .failed ∧ t.status.busy = false ∧ t.status.result = .err e ∧ t.status.errStep = some k ∧
  t.status.imgValid = false

/-! ## CAPTURE as pseudocode (R160) -/

/-- `Result<SensorFrame, CaptureError>` (R170). -/
inductive CaptureResult where
  | sensorFrame (raster : List Byte)
  | captureError (e : FceError) (k : CaptureStep)
  deriving DecidableEq, Repr

/-- The loop of R160 over the steps still to come, on the trace so far and the answers still to come; `none` where the
transport leaves a call unanswered. -/
def captureFrom (lenient : Bool) (T : BitVec 32) :
    List CaptureStep → List Call → List SendOutcome → List RecvOutcome → Option (CaptureResult × List Call)
  | [], _, _, _ => none
  | k :: ks, tr, sends, recvs =>
      match sends with
      | [] => none
      | .error :: _ => some (.captureError .transportFailure k, tr ++ [.send (wireFrame k)])
      | .ok :: sends =>
          let tr := tr ++ [.send (wireFrame k), .recv (expectedLen k) T]
          match recvs with
          | [] => none
          | .error :: _ => some (.captureError .transportFailure k, tr)
          | .timeout :: _ => some (.captureError .timeout k, tr)
          | .data r :: recvs =>
              match k with
              | .one | .two | .three =>
                  match decodeAcknowledgement r with
                  | .error e => some (.captureError e k, tr)
                  | .ok _ => captureFrom lenient T ks tr sends recvs
              | .four =>
                  match decodeImageResponse lenient r with
                  | .error e => some (.captureError e .four, tr)
                  | .ok out => some (.sensorFrame out, tr)

/-- `CAPTURE()` (R160): result and trace, from the configuration and the transport's answers. -/
def captureSpec (lenient : Bool) (T : BitVec 32) (sends : List SendOutcome) (recvs : List RecvOutcome) :
    Option (CaptureResult × List Call) :=
  captureFrom lenient T [.one, .two, .three, .four] [] sends recvs

/-- The registers show the result of a CAPTURE (R171, R197). -/
def State.Shows (s : State) : CaptureResult → Prop
  | .sensorFrame out =>
      s.sstate = .complete ∧ s.status.result = .ok ∧ s.status.errStep = none ∧ s.status.imgValid = true ∧
      s.mem.read? .imgbuf 0 10240 = some out
  | .captureError e k =>
      s.sstate = .failed ∧ s.status.result = .err e ∧ s.status.errStep = some k ∧ s.status.imgValid = false

/-! ## Invariants -/

/-- Which causes can arise at which step (R170). -/
def causeArises : FceError → CaptureStep → Bool
  | .timeout, _ => true
  | .transportFailure, _ => true
  | .shortResponse, k => k != .four
  | .truncatedFrame, k => k == .four
  | .encodingError, _ => false

/-- The running session stands at a position of R161. -/
def State.AtPosition (s : State) : Prop :=
  (s.phase = .send ∧ (sendStep? s.sstate).isSome) ∨ (s.phase = .recv ∧ (recvStep? s.sstate).isSome)

/-- What the registers and buffers mean together, in every state a run reaches. -/
structure State.Coherent (s : State) : Prop where
  /-- The buffers keep their canonical form and bounds (R50, R51). -/
  memory : s.mem.wf
  /-- `TX_VALID = 1`: `TXBUF[0 .. TXLEN)` is a well-formed frame of 5 to 259 bytes (R24, R96). -/
  frame : s.status.txValid = true →
    5 ≤ s.txlen.toNat ∧ s.txlen.toNat ≤ 259 ∧
      ∃ f, s.mem.read? .txbuf 0 s.txlen.toNat = some f ∧ isCommandFrame f = true
  /-- `IMG_VALID = 1`: all 10240 bytes of the raster are there (R26, R166). -/
  raster : s.status.imgValid = true → ∃ out, s.mem.read? .imgbuf 0 10240 = some out
  /-- A running CAPTURE has no raster yet and stands at a position of R161. -/
  running : s.status.busy = true → s.status.imgValid = false ∧ s.AtPosition
  /-- Between operations the session is fresh or over (R27, R169). -/
  resting : s.status.busy = false → s.phase = .send ∧ (s.sstate = .idle ∨ s.sstate = .complete ∨ s.sstate = .failed)
  /-- `ERRSTEP` is set exactly where a CAPTURE failed, with a cause that can arise at that step (R28, R170, R190). -/
  failedStep : ∀ k, s.status.errStep = some k → ∃ e, s.status.result = .err e ∧ causeArises e k = true
  /-- Without a step, the error is one an operation of its own can end with (R190). -/
  failedOp : s.status.errStep = none → s.status.result ≠ .err .timeout ∧ s.status.result ≠ .err .transportFailure

/-- How many transport calls have been made at a position of R161. -/
def callsMade : SState → Phase → Nat
  | .idle, .send => 0
  | .idle, .recv => 1
  | .statusChecked, .send => 2
  | .statusChecked, .recv => 3
  | .sensorPrepared, .send => 4
  | .sensorPrepared, .recv => 5
  | .captureTriggered, _ => 6
  | .imageRequested, _ => 7
  | .complete, _ => 8
  | .failed, _ => 8

/-- The trace is an initial part of R163's list; while a CAPTURE runs, exactly as long as its position says. -/
structure State.TraceOk (s : State) : Prop where
  initial : ∃ T, s.trace <+: fullTrace T
  running : s.status.busy = true → s.AtPosition ∧ s.trace = (fullTrace s.timeout).take (callsMade s.sstate s.phase)

end Sys2Proof.Machine
end

