-- ==== Sys2Proof/Certificates/Slice0/Obligations.lean ====
section
/-! DEFINITION. What is to be proved of the model. Each docstring names the rule of spec/ it formalises, or says that it
rests on a choice of the model and names the log entry. -/

open Sys2Proof Sys2Proof.Machine

/-! ## Words -/

/-- Decode and encode agree: no bit of any instruction is dropped (30_encoding.md §1 to §5). -/
def Obligations.DecodeOfEncodeIsTheInstruction : Prop :=
  ∀ i : Instr, i.wellFormed = true → decode i.format (encode i) = .ok i

/-- Every word that decodes is the encoding of the well-formed instruction it decodes to, in its own format. -/
def Obligations.EncodeOfDecodeIsTheWord : Prop :=
  ∀ (f : Format) (bytes : List Byte) (i : Instr), decode f bytes = .ok i →
    i.format = f ∧ i.wellFormed = true ∧ encode i = bytes

/-- Words written out from R85, R90 and 95_test_vectors.md V7, V8 decode to their rows; the frame with the source's
uncorrected checksum 0x30 (C1) and the frame with `LEN = 0` (R93) decode to none. -/
def Obligations.SpecWordsDecodeAsTabled : Prop :=
  decode .op [0x00#8] = .ok .enc ∧ decode .op [0x01#8] = .ok .ack ∧
  decode .op [0x02#8] = .ok .img ∧ decode .op [0x03#8] = .ok .capture ∧
  decode .cf [0x02#8, 0x00#8, 0x04#8, 0x37#8, 0x01#8, 0x01#8, 0x01#8, 0x32#8] = .ok .statusCheck ∧
  decode .cf [0x02#8, 0x00#8, 0x03#8, 0x80#8, 0x02#8, 0x01#8, 0x80#8] = .ok .prepareSensor ∧
  decode .cf [0x02#8, 0x00#8, 0x03#8, 0x82#8, 0x73#8, 0x01#8, 0xF3#8] = .ok .triggerCapture ∧
  decode .cf [0x02#8, 0x00#8, 0x01#8, 0x81#8, 0x80#8] = .ok .requestImage ∧
  decode .cf [0x02#8, 0x00#8, 0x01#8, 0x02#8, 0x03#8] = .ok (.cmdFrame [0x02#8]) ∧
  decode .cf [0x02#8, 0x00#8, 0x02#8, 0x02#8, 0x00#8, 0x00#8] = .ok (.cmdFrame [0x02#8, 0x00#8]) ∧
  decode .cf [0x02#8, 0x00#8, 0x04#8, 0x37#8, 0x01#8, 0x01#8, 0x01#8, 0x30#8] = .error .badChecksum ∧
  decode .cf [0x02#8, 0x00#8, 0x00#8, 0x00#8] = .error .lenZero

/-- The predicate of 30_encoding.md §5, clause by clause, and the spec's own inference there that the well-formed
frames are exactly the frames of ENC: each is ENC of exactly one payload, its bytes 3 to `len - 2`. -/
def Obligations.WellFormedFramesAreEncFrames : Prop :=
  ∀ f : List Byte,
    (isCommandFrame f = true ↔
      5 ≤ f.length ∧ f[0]? = some 0x02#8 ∧ f[1]? = some 0x00#8 ∧
      (∃ n : Byte, f[2]? = some n ∧ 1 ≤ n.toNat ∧ f.length = n.toNat + 4) ∧ xorAll (f.drop 2) = 0#8) ∧
    (isCommandFrame f = true ↔ ∃ p, encodeCommand p = .ok f) ∧
    (∀ p, encodeCommand p = .ok f → p = (f.drop 3).take (f.length - 4))

/-! ## ENC -/

/-- For every payload of 1 to 255 bytes the frame has length `n + 4`, starts with `02 00 n`, has the payload in bytes 3
to `n + 2`, and its last byte is the exclusive-or of `n` and all payload bytes; and ENC is injective, which the spec
infers itself (40_encode.md ENC). -/
def Obligations.EncodeCommandFrameProperty : Prop :=
  (∀ p : List Byte, 1 ≤ p.length → p.length ≤ 255 →
    ∃ f, encodeCommand p = .ok f ∧ f.length = p.length + 4 ∧
      f.take 3 = [0x02#8, 0x00#8, BitVec.ofNat 8 p.length] ∧ (f.drop 3).take p.length = p ∧
      f.getLast? = some (BitVec.ofNat 8 p.length ^^^ xorAll p)) ∧
  (∀ p q f : List Byte, encodeCommand p = .ok f → encodeCommand q = .ok f → p = q)

/-- R115: ENC is defined on every byte sequence and tests its length itself: it rejects the payloads of length 0 and
above 255 with `EncodingError` and no other payload, whatever its bytes; an accepted payload stands in the frame
byte for byte. -/
def Obligations.EncRejectsExactlyIllegalLengths : Prop :=
  ∀ p : List Byte,
    (encodeCommand p = .error .encodingError ↔ p.length = 0 ∨ 255 < p.length) ∧
    (¬ (p.length = 0 ∨ 255 < p.length) →
      ∃ f, encodeCommand p = .ok f ∧ ∀ k, k < p.length → f[3 + k]? = p[k]?)

/-- ENC in the register view (40_encode.md ENC, 20_memory.md §5): the code 0 of `CMD` starts it; on a readable
payload of 1 to 255 bytes it completes with the frame in `TXBUF` and `TXLEN`; on any other length it raises
`EncodingError` without reading `PBUF`, and there is no frame to read; in both it changes nothing else. That `CMD`
keeps the code written, and that after an error `TXLEN` and the bytes of `TXBUF`, which then hold no value for
anyone, stay in the model's state, are the model's choices (logs 1, 23). -/
def Obligations.EncCompletesOrRaisesEncodingError : Prop :=
  decode .op [0x00#8] = .ok .enc ∧
  ∀ s : State, s.status.busy = false →
    (∀ p, 1 ≤ s.plen.toNat → s.plen.toNat ≤ 255 → s.mem.read? .pbuf 0 s.plen.toNat = some p →
      ∃ t, exec .enc s = .next t ∧
        t.mem.read? .txbuf 0 (p.length + 4) =
          some ([0x02#8, 0x00#8, BitVec.ofNat 8 p.length] ++ p ++ [BitVec.ofNat 8 p.length ^^^ xorAll p]) ∧
        t.txlen.toNat = p.length + 4 ∧
        t.status = { s.status with busy := false, result := .ok, errStep := none, txValid := true } ∧
        t.cmd = 0#2 ∧ t.plen = s.plen ∧ t.rxlen = s.rxlen ∧
        s.SameConfig t ∧ s.SameSession t ∧ s.SameOutside t ∧ s.mem.SameBut t.mem .txbuf (p.length + 4)) ∧
    ((s.plen.toNat = 0 ∨ 255 < s.plen.toNat) →
      ∃ t, exec .enc s = .next t ∧
        t.status = { s.status with busy := false, result := .err .encodingError, errStep := none, txValid := false } ∧
        t.cmd = 0#2 ∧ t.plen = s.plen ∧ t.txlen = s.txlen ∧ t.rxlen = s.rxlen ∧
        s.SameConfig t ∧ s.SameSession t ∧ s.SameOutside t ∧ s.mem.Same t.mem ∧
        (∀ rest, step { t with host := .read (.reg .txlen) :: rest } = .refused .noFrame) ∧
        ∀ rest a n, a + n ≤ 259 → step { t with host := .read (.buffer .txbuf a n) :: rest } = .refused .noFrame)

/-- Reading a byte that holds no value faults and gives no result: ENC of a payload, IMG of a pixel's window, of a
response of any length that is not rejected, in either mode (20_memory.md §3, the spec's own decisions D26 and D8,
logs 8 and 18; 95_test_vectors.md P7). In canonical form, the byte is one that was never written. -/
def Obligations.UnwrittenOperandFaults : Prop :=
  ∀ (s : State) (a : Nat), s.status.busy = false → s.mem.wf →
    (1 ≤ s.plen.toNat → s.plen.toNat ≤ 255 → a < s.plen.toNat → s.mem.byte? .pbuf a = none →
      exec .enc s = .fault (.noValue .pbuf)) ∧
    (∀ i, (s.lenient = true ∨ s.rxlen.toNat = 10246) → i < 5120 → 4 + 2 * i + 1 < s.rxlen.toNat →
      (a = 4 + 2 * i ∨ a = 4 + 2 * i + 1) → s.mem.byte? .rxbuf a = none →
      exec .img s = .fault (.noValue .rxbuf))

/-- The frames issued by the host while nothing runs are the operation `ENC <payload>` of R98 (logs 1, 4): the
payload is presented, its frame, which is the word issued, is left in `TXBUF`, and nothing else changes. -/
def Obligations.HostIssuedFrameIsEncOfItsPayload : Prop :=
  ∀ (s : State) (i : Instr) (p : List Byte), s.status.busy = false →
    ((i = .cmdFrame p ∧ 1 ≤ p.length ∧ p.length ≤ 255) ∨ (i = .statusCheck ∧ p = [0x37#8, 0x01#8, 0x01#8, 0x01#8]) ∨
      (i = .prepareSensor ∧ p = [0x80#8, 0x02#8, 0x01#8]) ∨ (i = .triggerCapture ∧ p = [0x82#8, 0x73#8, 0x01#8]) ∨
      (i = .requestImage ∧ p = [0x81#8])) →
    ∃ t, exec i s = .next t ∧
      t.mem.read? .pbuf 0 p.length = some p ∧ t.plen.toNat = p.length ∧
      t.mem.read? .txbuf 0 (p.length + 4) = some (encode i) ∧ t.txlen.toNat = p.length + 4 ∧
      t.status = { s.status with busy := false, result := .ok, errStep := none, txValid := true } ∧
      t.cmd = 0#2 ∧ t.rxlen = s.rxlen ∧ s.SameConfig t ∧ s.SameSession t ∧ s.SameOutside t ∧
      ∀ sq x, ¬ (sq = .pbuf ∧ x < p.length) → ¬ (sq = .txbuf ∧ x < p.length + 4) →
        t.mem.byte? sq x = s.mem.byte? sq x

/-- R113: encoding the same payload twice yields identical frames, and a second ENC finds nothing to change; ENC of a
payload answers the same frame or the same error in any two states in which nothing runs, whatever their session,
configuration, buffers or history. -/
def Obligations.EncDependsOnItsPayloadAlone : Prop :=
  (∀ s t : State, exec .enc s = .next t → exec .enc t = .next t) ∧
  (∀ (s u : State) (p : List Byte), s.status.busy = false → u.status.busy = false →
    ∃ s' u', exec .enc (s.presentPayload p) = .next s' ∧ exec .enc (u.presentPayload p) = .next u' ∧
      s'.status.result = u'.status.result ∧ s'.status.errStep = u'.status.errStep ∧
      s'.status.txValid = u'.status.txValid ∧
      (s'.status.txValid = true →
        s'.txlen = u'.txlen ∧ s'.mem.read? .txbuf 0 s'.txlen.toNat = u'.mem.read? .txbuf 0 s'.txlen.toNat))

/-! ## ACK -/

/-- ACK in the register view (41_ack.md; the spec's own decision D10 for more than 7 bytes, log 18): it accepts
exactly the length 7, by `RXLEN` alone, and raises `ShortResponse` for every other; in both cases only `RESULT` and
`ERRSTEP` change (and `CMD` keeps the code written, the model's choice, log 1). -/
def Obligations.AckAcceptsExactlySevenBytes : Prop :=
  ∀ s : State, s.status.busy = false →
    ∃ t, exec .ack s = .next t ∧
      t.status =
        { s.status with
          busy := false, errStep := none
          result := if s.rxlen.toNat = 7 then .ok else .err .shortResponse } ∧
      t.cmd = 1#2 ∧ t.plen = s.plen ∧ t.txlen = s.txlen ∧ t.rxlen = s.rxlen ∧
      s.SameConfig t ∧ s.SameSession t ∧ s.SameOutside t ∧ s.mem.Same t.mem

/-- ACK validates nothing but the length (41_ack.md ACK). Two responses of the same length get the same verdict,
whatever the bytes, the configuration, the session or the history, which the spec infers itself; the verdict is
success for length 7, whatever the content, and `ShortResponse` for any other, for more than 7 bytes by the spec's
own decision D10 (log 18). -/
def Obligations.AckVerdictDependsOnLengthAlone : Prop :=
  (∀ r q : List Byte, r.length = q.length → decodeAcknowledgement r = decodeAcknowledgement q) ∧
  (∀ r : List Byte, r.length = 7 → decodeAcknowledgement r = .ok ()) ∧
  (∀ (s t : State) (r q : List Byte), s.status.busy = false → t.status.busy = false → r.length = q.length →
    ∃ s' t', exec .ack (s.storeResponse r) = .next s' ∧ exec .ack (t.storeResponse q) = .next t' ∧
      s'.status.result = t'.status.result ∧ s'.status.errStep = t'.status.errStep ∧
      s'.status.result = if r.length = 7 then .ok else .err .shortResponse)

/-- A response of its format issued by the host while nothing runs is the operation `ACK <7 bytes>` of R98 (logs 1,
4): it is stored and accepted. -/
def Obligations.HostIssuedAckResponseIsAccepted : Prop :=
  ∀ (s : State) (r : List Byte), s.status.busy = false → r.length = 7 →
    ∃ t, exec (.ackResp r) s = .next t ∧
      t.mem.read? .rxbuf 0 7 = some r ∧ t.rxlen.toNat = 7 ∧
      t.status = { s.status with busy := false, result := .ok, errStep := none } ∧
      t.cmd = 1#2 ∧ t.plen = s.plen ∧ t.txlen = s.txlen ∧
      s.SameConfig t ∧ s.SameSession t ∧ s.SameOutside t ∧ s.mem.SameBut t.mem .rxbuf 7

/-! ## IMG -/

/-- IMG in strict mode (42_image.md IMG): the code 2 of `CMD` starts it; on a 10246-byte response whose pixel bytes
are readable it completes with bytes 4 to 10243 in `IMGBUF`, unchanged; on a shorter one it raises `TruncatedFrame`
before any byte is read or written, and there is no raster to read. Nothing else changes. That `CMD` keeps the code,
and that after an error the bytes of `IMGBUF`, which then hold no value for anyone, stay in the model's state, are
the model's choices (logs 1, 23). -/
def Obligations.StrictImgCopiesOrRaisesTruncatedFrame : Prop :=
  decode .op [0x02#8] = .ok .img ∧
  ∀ s : State, s.status.busy = false → s.lenient = false →
    (∀ px, s.rxlen.toNat = 10246 → s.mem.read? .rxbuf 4 10240 = some px →
      ∃ t, exec .img s = .next t ∧
        t.mem.read? .imgbuf 0 10240 = some px ∧
        t.status = { s.status with busy := false, result := .ok, errStep := none, imgValid := true } ∧
        t.cmd = 2#2 ∧ t.plen = s.plen ∧ t.txlen = s.txlen ∧ t.rxlen = s.rxlen ∧
        s.SameConfig t ∧ s.SameSession t ∧ s.SameOutside t ∧ s.mem.SameBut t.mem .imgbuf 10240) ∧
    (s.rxlen.toNat < 10246 →
      ∃ t, exec .img s = .next t ∧
        t.status = { s.status with busy := false, result := .err .truncatedFrame, errStep := none, imgValid := false } ∧
        t.cmd = 2#2 ∧ t.plen = s.plen ∧ t.txlen = s.txlen ∧ t.rxlen = s.rxlen ∧
        s.SameConfig t ∧ s.SameSession t ∧ s.SameOutside t ∧ s.mem.Same t.mem ∧
        ∀ rest a n, a + n ≤ 10240 → step { t with host := .read (.buffer .imgbuf a n) :: rest } = .refused .noRaster)

/-- A response longer than 10246 bytes (the spec's own decision D9, log 18; what stays in `CMD` and `IMGBUF` is
the model's choice, logs 1, 23): in strict mode IMG raises
`TruncatedFrame` as for a shorter one, and nothing else changes; in lenient mode the result is that of the first
10246 bytes. -/
def Obligations.OverlongImageResponseIsTruncatedFrameOrCut : Prop :=
  (∀ s : State, s.status.busy = false → s.lenient = false → 10246 < s.rxlen.toNat →
    ∃ t, exec .img s = .next t ∧
      t.status = { s.status with busy := false, result := .err .truncatedFrame, errStep := none, imgValid := false } ∧
      t.cmd = 2#2 ∧ t.plen = s.plen ∧ t.txlen = s.txlen ∧ t.rxlen = s.rxlen ∧
      s.SameConfig t ∧ s.SameSession t ∧ s.SameOutside t ∧ s.mem.Same t.mem) ∧
  (∀ r : List Byte, 10246 < r.length →
    decodeImageResponse false r = .error .truncatedFrame ∧
    decodeImageResponse true r = decodeImageResponse true (r.take 10246))

/-- IMG in lenient mode (42_image.md; the spec's own decision D8 on which pixels are copied, log 18; that `CMD`
keeps the code is the model's choice, log 1): whatever the length `m`, it completes; 0 pixels are copied for `m <=
5`, `(m - 4) div 2` for `6 <= m <= 10244`, 5120 for `m >= 10244`, always the first ones, and the rest of the raster
is zero. -/
def Obligations.LenientImgNeverRaisesAnError : Prop :=
  ∀ (s : State) (k : Nat) (px : List Byte), s.status.busy = false → s.lenient = true →
    k = (if s.rxlen.toNat ≤ 5 then 0 else if s.rxlen.toNat ≤ 10244 then (s.rxlen.toNat - 4) / 2 else 5120) →
    s.mem.read? .rxbuf 4 (2 * k) = some px →
    ∃ t, exec .img s = .next t ∧
      t.mem.read? .imgbuf 0 10240 = some (px ++ List.replicate (10240 - 2 * k) 0x00#8) ∧
      t.status = { s.status with busy := false, result := .ok, errStep := none, imgValid := true } ∧
      t.cmd = 2#2 ∧ t.plen = s.plen ∧ t.txlen = s.txlen ∧ t.rxlen = s.rxlen ∧
      s.SameConfig t ∧ s.SameSession t ∧ s.SameOutside t ∧ s.mem.SameBut t.mem .imgbuf 10240

/-- R88, R133: the raster of a complete response is a copy, pixel by pixel: `SF[2*i] = IR[4 + 2*i]` and
`SF[2*i + 1] = IR[4 + 2*i + 1]` for the 5120 pixels, in either mode, and nothing more; no response of 10246 bytes is
rejected for its content. -/
def Obligations.PixelsAreCopiedUnchanged : Prop :=
  ∀ (lenient : Bool) (r : List Byte), r.length = 10246 →
    ∃ out, decodeImageResponse lenient r = .ok out ∧ out.length = 10240 ∧
      ∀ i, i < 5120 → out[2 * i]? = r[4 + 2 * i]? ∧ out[2 * i + 1]? = r[4 + 2 * i + 1]?

/-- The tolerant decode, pixel by pixel (42_image.md, lenient mode; the spec's own decisions D8 and D31, log 18): a
pixel is copied exactly when both bytes of its window exist, and is `00 00` otherwise; the raster always has 10240
bytes. -/
def Obligations.LenientPixelIsCopiedOrZero : Prop :=
  ∀ r : List Byte,
    ∃ out, decodeImageResponse true r = .ok out ∧ out.length = 10240 ∧
      ∀ i, i < 5120 →
        (4 + 2 * i + 1 ≤ r.length - 1 → out[2 * i]? = r[4 + 2 * i]? ∧ out[2 * i + 1]? = r[4 + 2 * i + 1]?) ∧
        (¬ 4 + 2 * i + 1 ≤ r.length - 1 → out[2 * i]? = some 0x00#8 ∧ out[2 * i + 1]? = some 0x00#8)

/-- Two responses that differ only in the four header bytes and the two trailer bytes give the same result, in either
mode (42_image.md, the spec's own inference from both modes). -/
def Obligations.HeaderAndTrailerAreIgnored : Prop :=
  ∀ (lenient : Bool) (r q : List Byte), r.length = q.length →
    (∀ k, 4 ≤ k → k ≠ 10244 → k ≠ 10245 → r[k]? = q[k]?) →
    decodeImageResponse lenient r = decodeImageResponse lenient q

/-- What IMG answers does not depend on `RXBUF` at any index that is below 4, above 10243, or not below `RXLEN`: it
reads none of them (42_image.md, the bound on reads, the spec's own inference). Two states that differ there and
nowhere else give the same raster, or both fault. -/
def Obligations.ImgReadsOnlyThePixelBytesPresent : Prop :=
  ∀ (s : State) (b : Buffer), s.status.busy = false → s.mem.wf → Buffer.wf 10246 b →
    (∀ a, 4 ≤ a → a ≤ 10243 → a < s.rxlen.toNat → b.byte? a = s.mem.byte? .rxbuf a) →
    (∀ t, exec .img s = .next t →
      exec .img { s with mem := { s.mem with rxbuf := b } } = .next { t with mem := { t.mem with rxbuf := b } }) ∧
    (∀ e, exec .img s = .fault e → exec .img { s with mem := { s.mem with rxbuf := b } } = .fault e)

/-- A response of its format issued by the host while nothing runs is the operation `IMG <bytes>` of R98 (logs 1, 4): it
is stored and unpacked, in either mode. -/
def Obligations.HostIssuedImageResponseIsUnpacked : Prop :=
  ∀ (s : State) (h px tr : List Byte), s.status.busy = false →
    h.length = 4 → px.length = 10240 → tr.length = 2 →
    ∃ t, exec (.imgResp h px tr) s = .next t ∧
      t.mem.read? .rxbuf 0 10246 = some (h ++ px ++ tr) ∧ t.rxlen.toNat = 10246 ∧
      t.mem.read? .imgbuf 0 10240 = some px ∧
      t.status = { s.status with busy := false, result := .ok, errStep := none, imgValid := true } ∧
      t.cmd = 2#2 ∧ t.plen = s.plen ∧ t.txlen = s.txlen ∧
      s.SameConfig t ∧ s.SameSession t ∧ s.SameOutside t ∧
      ∀ sq x, ¬ (sq = .rxbuf ∧ x < 10246) → ¬ (sq = .imgbuf ∧ x < 10240) → t.mem.byte? sq x = s.mem.byte? sq x

/-- The raster `IMGBUF` holds is handed over whole while nothing runs, and that changes nothing but what the host
observed (R136, R227); bytes that are not that raster, a raster marked absent (R55), and a hand-over while an
operation runs (R232) are refused. -/
def Obligations.SensorFrameIsHandedOverWhenValid : Prop :=
  ∀ (s : State) (px : List Byte),
    (s.status.busy = false → s.status.imgValid = true → s.mem.read? .imgbuf 0 10240 = some px →
      exec (.sensorFrame px) s = .next { s with observed := some (.raster px) }) ∧
    (s.status.busy = false → s.status.imgValid = true → s.mem.read? .imgbuf 0 10240 ≠ some px →
      exec (.sensorFrame px) s = .refused .notTheRaster) ∧
    (s.status.busy = false → s.status.imgValid = false → exec (.sensorFrame px) s = .refused .noRaster) ∧
    (s.status.busy = true → exec (.sensorFrame px) s = .refused .busyAccess)

/-- The consumer's view of the raster (20_memory.md §2, §5; the spec's own decisions D20 and D21, log 18): pixel `i`
is the big-endian number of its pair, an integer 0 to 65535, and row `r`, column `c` name pixel `64*r + c`. -/
def Obligations.PixelsAreBigEndianRowMajor : Prop :=
  ∀ (out : List Byte) (r c : Nat) (hi lo : Byte), r < 80 → c < 64 →
    out[2 * (64 * r + c)]? = some hi → out[2 * (64 * r + c) + 1]? = some lo →
    pix out r c = 256 * hi.toNat + lo.toNat ∧ pixelValue out (64 * r + c) = pix out r c ∧ pix out r c ≤ 65535 ∧
    64 * r + c < 5120 ∧ (64 * r + c) / 64 = r ∧ (64 * r + c) % 64 = c

/-- The register views of ENC, ACK and IMG are the three pure functions of the codec: started on an operand just
presented, of any length, each ends as its function says (40_encode.md, 41_ack.md, 42_image.md). How a payload
longer than `PBUF` is presented is the model's reading (log 10). -/
def Obligations.HostStartedOperationsAreTheCodec : Prop :=
  ∀ (s : State) (x : List Byte), s.status.busy = false →
    (∃ t, exec .enc (s.presentPayload x) = .next t ∧
      match encodeCommand x with
      | .ok f => t.status.result = .ok ∧ t.status.txValid = true ∧ t.txlen.toNat = f.length ∧
          t.mem.read? .txbuf 0 f.length = some f
      | .error e => t.status.result = .err e ∧ t.status.txValid = false) ∧
    (∃ t, exec .ack (s.storeResponse x) = .next t ∧
      match decodeAcknowledgement x with
      | .ok _ => t.status.result = .ok
      | .error e => t.status.result = .err e) ∧
    (∃ t, exec .img (s.storeResponse x) = .next t ∧
      match decodeImageResponse s.lenient x with
      | .ok out => t.status.result = .ok ∧ t.status.imgValid = true ∧ t.mem.read? .imgbuf 0 10240 = some out
      | .error e => t.status.result = .err e ∧ t.status.imgValid = false)

/-! ## CAPTURE -/

/-- CAPTURE's start (43_capture.md §3; the spec's own decisions D25 and D27, log 18; that `CMD` keeps the code is
the model's choice, log 1): whatever session went before, `SSTATE` is `Idle`, the trace is empty, `BUSY` is set and
the old raster is invalid; no buffer, length, configuration or result changes. -/
def Obligations.CaptureStartsAFreshSession : Prop :=
  ∀ s : State, s.status.busy = false →
    ∃ t, exec .capture s = .next t ∧
      t.sstate = .idle ∧ t.phase = .send ∧ t.trace = [] ∧
      t.status = { s.status with busy := true, imgValid := false } ∧
      t.cmd = 3#2 ∧ t.plen = s.plen ∧ t.txlen = s.txlen ∧ t.rxlen = s.rxlen ∧
      s.SameConfig t ∧ s.SameOutside t ∧ s.mem.Same t.mem

/-- The send half of each step (43_capture.md §2, §3; the spec's own decisions D13 and D25, log 18), for the four
fixed frames: at its position the payload and the frame are left in `PBUF`, `PLEN`, `TXBUF`, `TXLEN`, the call is
recorded, and with the answer `Ok` the step's receive is next. With `Error` the session fails with
`TransportFailure` at that step and the receive is not made. -/
def Obligations.FixedFrameIsSentAtItsStep : Prop :=
  ∀ (s : State) (q q' : SState) (k : CaptureStep) (a : SendOutcome) (rest : List SendOutcome),
    (q, k, q') ∈ sendRows → s.status.busy = true → s.phase = .send → s.sstate = q → s.sendAnswers = a :: rest →
    ∃ t, exec (stepInstr k) s = .next t ∧
      t.trace = s.trace ++ [.send (wireFrame k)] ∧ t.sendAnswers = rest ∧
      t.mem.read? .pbuf 0 (cmdPayload k).length = some (cmdPayload k) ∧ t.plen.toNat = (cmdPayload k).length ∧
      t.mem.read? .txbuf 0 (wireFrame k).length = some (wireFrame k) ∧ t.txlen.toNat = (wireFrame k).length ∧
      t.status.txValid = true ∧
      (a = .ok → t.sstate = q' ∧ t.phase = .recv ∧ t.status = { s.status with txValid := true }) ∧
      (a = .error → t.FailedWith .transportFailure k) ∧
      t.cmd = s.cmd ∧ t.rxlen = s.rxlen ∧ s.SameConfig t ∧
      t.host = s.host ∧ t.recvAnswers = s.recvAnswers ∧ t.observed = s.observed ∧ t.freeIdx = s.freeIdx ∧
      ∀ sq x, ¬ (sq = .pbuf ∧ x < (cmdPayload k).length) → ¬ (sq = .txbuf ∧ x < (wireFrame k).length) →
        t.mem.byte? sq x = s.mem.byte? sq x

/-- The receive half of steps 1 to 3 on a 7-byte response of any content (43_capture.md §3; where it is stored is the
spec's own decision D25, log 18): it is stored, the call is
recorded, and the session goes to the next state; nothing else changes. -/
def Obligations.AckResponseAdvancesTheSession : Prop :=
  ∀ (s : State) (q q' : SState) (k : CaptureStep) (r : List Byte),
    (q, k, q') ∈ ackRows → s.status.busy = true → s.phase = .recv → s.sstate = q → r.length = 7 →
    ∃ t, exec (.ackResp r) s = .next t ∧
      t.sstate = q' ∧ t.phase = .send ∧ t.trace = s.trace ++ [.recv 7 s.timeout] ∧
      t.mem.read? .rxbuf 0 7 = some r ∧ t.rxlen.toNat = 7 ∧
      t.status = s.status ∧ t.cmd = s.cmd ∧ t.plen = s.plen ∧ t.txlen = s.txlen ∧ s.SameConfig t ∧ s.SameOutside t ∧
      s.mem.SameBut t.mem .rxbuf 7

/-- The receive half of step 4 on a 10246-byte response of any content, in either mode (43_capture.md §3; the spec's
own decision D25, log 18): the raster is its bytes 4 to 10243 and the capture is complete. That the phase is `S`
afterwards is the model's choice (log 7). -/
def Obligations.ImageResponseCompletesTheCapture : Prop :=
  ∀ (s : State) (h px tr : List Byte),
    s.status.busy = true → s.phase = .recv → s.sstate = .imageRequested →
    h.length = 4 → px.length = 10240 → tr.length = 2 →
    ∃ t, exec (.imgResp h px tr) s = .next t ∧
      t.sstate = .complete ∧ t.phase = .send ∧ t.trace = s.trace ++ [.recv 10246 s.timeout] ∧
      t.status = { s.status with busy := false, result := .ok, errStep := none, imgValid := true } ∧
      t.mem.read? .imgbuf 0 10240 = some px ∧
      t.mem.read? .rxbuf 0 10246 = some (h ++ px ++ tr) ∧ t.rxlen.toNat = 10246 ∧
      t.cmd = s.cmd ∧ t.plen = s.plen ∧ t.txlen = s.txlen ∧ s.SameConfig t ∧ s.SameOutside t ∧
      ∀ sq x, ¬ (sq = .rxbuf ∧ x < 10246) → ¬ (sq = .imgbuf ∧ x < 10240) → t.mem.byte? sq x = s.mem.byte? sq x

/-- R161: the transition table, every row, as the machine's steps while the host waits; and no other row: from
`Complete` and `Failed` no call is made and no step taken. -/
def Obligations.CaptureFollowsItsTransitionTable : Prop :=
  ∀ s : State, s.HostWaits →
    (s.status.busy = true → s.phase = .send → ∀ q k q', (q, k, q') ∈ sendRows → s.sstate = q →
      (∀ rest, s.sendAnswers = .ok :: rest →
        ∃ t, step s = .next t ∧ t.sstate = q' ∧ t.phase = .recv ∧ t.status.busy = true ∧
          t.trace = s.trace ++ [.send (wireFrame k)] ∧ t.sendAnswers = rest ∧ t.recvAnswers = s.recvAnswers) ∧
      (∀ rest, s.sendAnswers = .error :: rest →
        ∃ t, step s = .next t ∧ t.FailedWith .transportFailure k ∧
          t.trace = s.trace ++ [.send (wireFrame k)] ∧ t.sendAnswers = rest ∧ t.recvAnswers = s.recvAnswers)) ∧
    (s.status.busy = true → s.phase = .recv → ∀ q k, (q, k) ∈ recvRows → s.sstate = q →
      (∀ rest r, s.recvAnswers = .data r :: rest →
        ∃ t, step s = .next t ∧ t.trace = s.trace ++ [.recv (if k = .four then 10246 else 7) s.timeout] ∧
          t.recvAnswers = rest ∧ t.sendAnswers = s.sendAnswers ∧
          (∀ q', (q, k, q') ∈ ackRows → r.length = 7 → t.sstate = q' ∧ t.phase = .send ∧ t.status.busy = true) ∧
          (k ≠ .four → r.length ≠ 7 → t.FailedWith .shortResponse k) ∧
          (k = .four → ∀ out, decodeImageResponse s.lenient r = .ok out →
            t.sstate = .complete ∧ t.status.busy = false ∧ t.status.imgValid = true ∧
              t.mem.read? .imgbuf 0 10240 = some out) ∧
          (k = .four → decodeImageResponse s.lenient r = .error .truncatedFrame → t.FailedWith .truncatedFrame .four)) ∧
      (∀ rest, s.recvAnswers = .timeout :: rest →
        ∃ t, step s = .next t ∧ t.FailedWith .timeout k ∧
          t.trace = s.trace ++ [.recv (if k = .four then 10246 else 7) s.timeout] ∧
          t.recvAnswers = rest ∧ t.sendAnswers = s.sendAnswers) ∧
      (∀ rest, s.recvAnswers = .error :: rest →
        ∃ t, step s = .next t ∧ t.FailedWith .transportFailure k ∧
          t.trace = s.trace ++ [.recv (if k = .four then 10246 else 7) s.timeout] ∧
          t.recvAnswers = rest ∧ t.sendAnswers = s.sendAnswers)) ∧
    ((s.sstate = .complete ∨ s.sstate = .failed) →
      ∃ t, step s = .next t ∧ t.sstate = s.sstate ∧ t.phase = s.phase ∧ t.trace = s.trace ∧
        t.sendAnswers = s.sendAnswers ∧ t.recvAnswers = s.recvAnswers)

/-- A choice of the model (log 5): while the transport has not answered the call the sequencer is at, the machine
stays as it is. -/
def Obligations.UnansweredCallLeavesTheMachine : Prop :=
  ∀ s : State, s.HostWaits → s.status.busy = true →
    ((s.phase = .send ∧ s.sendAnswers = []) ∨ (s.phase = .recv ∧ s.recvAnswers = [])) → step s = .next s

/-- A receive of any step that answers `Timeout` or `Error` (43_capture.md §3; the spec's own decisions D11, D12 and
D25, log 18): the session fails at that step, and no buffer, no length and no part of the configuration changes. -/
def Obligations.FailedReceiveWithoutDataChangesNoBuffer : Prop :=
  ∀ (s : State) (h : List HostEvent) (q : SState) (k : CaptureStep) (a : RecvOutcome) (e : FceError)
      (rest : List RecvOutcome),
    s.SequencerMoves h → s.status.busy = true → s.phase = .recv → (q, k) ∈ recvRows → s.sstate = q →
    s.recvAnswers = a :: rest → (a = .timeout ∧ e = .timeout ∨ a = .error ∧ e = .transportFailure) →
    ∃ t, step s = .next t ∧ t.FailedWith e k ∧ t.status.txValid = s.status.txValid ∧
      t.trace = s.trace ++ [.recv (if k = .four then 10246 else 7) s.timeout] ∧
      t.cmd = s.cmd ∧ t.plen = s.plen ∧ t.txlen = s.txlen ∧ t.rxlen = s.rxlen ∧ s.mem.Same t.mem ∧ s.SameConfig t ∧
      t.host = h ∧ t.sendAnswers = s.sendAnswers ∧ t.recvAnswers = rest ∧ t.observed = s.observed

/-- A receive of any step that delivers data of another length than the step expects (43_capture.md §3; the spec's
own decisions D9, D10 and D25, log 18): the data is stored as far as `RXBUF` goes and counted in `RXLEN`, bytes of
an earlier response beyond it stay, and the session fails with `ShortResponse` or `TruncatedFrame`; at step 4 in
lenient mode it completes with the raster. Nothing else changes. -/
def Obligations.DataOfAnotherLengthIsStoredAndJudged : Prop :=
  ∀ (s : State) (h : List HostEvent) (q : SState) (k : CaptureStep) (r : List Byte) (rest : List RecvOutcome),
    s.SequencerMoves h → s.status.busy = true → s.phase = .recv → (q, k) ∈ recvRows → s.sstate = q →
    s.recvAnswers = .data r :: rest → r.length ≠ (if k = .four then 10246 else 7) →
    ∃ t, step s = .next t ∧
      (k ≠ .four → t.FailedWith .shortResponse k) ∧
      (k = .four → s.lenient = false → t.FailedWith .truncatedFrame .four) ∧
      (k = .four → s.lenient = true → t.sstate = .complete ∧
        t.status = { s.status with busy := false, result := .ok, errStep := none, imgValid := true } ∧
        ∃ out, decodeImageResponse true r = .ok out ∧ t.mem.read? .imgbuf 0 10240 = some out) ∧
      t.status.txValid = s.status.txValid ∧
      t.trace = s.trace ++ [.recv (if k = .four then 10246 else 7) s.timeout] ∧
      t.rxlen.toNat = min r.length 16383 ∧ t.mem.read? .rxbuf 0 (min r.length 10246) = some (r.take 10246) ∧
      t.cmd = s.cmd ∧ t.plen = s.plen ∧ t.txlen = s.txlen ∧ s.SameConfig t ∧
      t.host = h ∧ t.sendAnswers = s.sendAnswers ∧ t.recvAnswers = rest ∧ t.observed = s.observed ∧
      ∀ sq x, ¬ (sq = .rxbuf ∧ x < min r.length 10246) →
        ¬ (sq = .imgbuf ∧ x < 10240 ∧ k = .four ∧ s.lenient = true) → t.mem.byte? sq x = s.mem.byte? sq x

/-- Step 4 runs IMG in the current mode (43_capture.md §3; the spec's own decisions D8, D30, log 18): with `LENIENT
= 1` data of any length completes the capture, with pixels whose window lies beyond it zero; with `LENIENT = 0` only
10246 bytes do. `LENIENT` has no effect on steps 1 to 3, where a wrong length is `ShortResponse` in both modes. -/
def Obligations.LenientModeReachesOnlyTheImageStep : Prop :=
  ∀ (s : State) (r : List Byte) (rest : List RecvOutcome),
    s.HostWaits → s.status.busy = true → s.phase = .recv → s.recvAnswers = .data r :: rest →
    (s.sstate = .imageRequested → (s.lenient = true ∨ r.length = 10246) →
      ∃ t, step s = .next t ∧ t.sstate = .complete ∧ t.status.result = .ok ∧ t.status.imgValid = true ∧
        ∃ out, t.mem.read? .imgbuf 0 10240 = some out ∧
          ∀ i, i < 5120 →
            (4 + 2 * i + 1 < r.length → out[2 * i]? = r[4 + 2 * i]? ∧ out[2 * i + 1]? = r[4 + 2 * i + 1]?) ∧
            (r.length ≤ 4 + 2 * i + 1 → out[2 * i]? = some 0x00#8 ∧ out[2 * i + 1]? = some 0x00#8)) ∧
    (s.sstate = .imageRequested → s.lenient = false → r.length ≠ 10246 →
      ∃ t, step s = .next t ∧ t.FailedWith .truncatedFrame .four) ∧
    (∀ q k, (q, k) ∈ recvRows → k ≠ .four → s.sstate = q → r.length ≠ 7 →
      ∃ t, step s = .next t ∧ t.FailedWith .shortResponse k)

/-- A CAPTURE the host issues and awaits, from any state in which nothing runs, ends with the result, the final
`SSTATE`, the flags and the trace that the pseudocode of 43_capture.md §3 computes from the configuration and the
transport's answers. (So the table there, which the machine's steps follow, and the pseudocode define the same
function.) That the host issues and awaits is the model's choice (log 6), and so is one call a step, from which the
bound of nine steps comes (log 7); what `STATUS` shows is the spec's own decision D25 (log 18). -/
def Obligations.CaptureMatchesItsPseudocode : Prop :=
  ∀ (s : State) (rest : List HostEvent) (res : CaptureResult) (tr : List Call),
    s.status.busy = false → s.host = .issue .op [0x03#8] :: .await :: rest →
    captureSpec s.lenient s.timeout s.sendAnswers s.recvAnswers = some (res, tr) →
    ∃ n t, n ≤ 9 ∧ core.run n s = .next t ∧ t.status.busy = false ∧ t.host = .await :: rest ∧
      t.status.txValid = true ∧ t.trace = tr ∧ State.Shows t res

/-- A CAPTURE always ends (43_capture.md §3, the spec's own inference): from every state of a running one in which
the host waits, once the transport has answered its calls, at most eight steps lead to `Complete` or `Failed`. That
a step is one call is the model's choice (logs 5, 7). -/
def Obligations.CaptureEndsWithinEightCalls : Prop :=
  ∀ s : State, s.Coherent → s.HostWaits → s.status.busy = true →
    4 ≤ s.sendAnswers.length → 4 ≤ s.recvAnswers.length →
    ∃ n t, n ≤ 8 ∧ core.run n s = .next t ∧ t.status.busy = false ∧ (t.sstate = .complete ∨ t.sstate = .failed)

/-- R166: a step that ends a CAPTURE leaves either a complete raster of 10240 bytes or an error and no raster. -/
def Obligations.NoPartialSuccess : Prop :=
  ∀ s t : State, s.status.busy = true → step s = .next t → t.status.busy = false →
    (t.sstate = .complete ∧ t.status.result = .ok ∧ t.status.imgValid = true ∧
      ∃ out, t.mem.read? .imgbuf 0 10240 = some out ∧ out.length = 10240) ∨
    (t.sstate = .failed ∧ (∃ e k, t.status.result = .err e ∧ t.status.errStep = some k) ∧ t.status.imgValid = false)

/-! ## Invariants -/

/-- The state after reset is coherent. -/
def Obligations.ResetIsCoherent : Prop := State.reset.Coherent

/-- Every step keeps the state coherent (an invariant of the model, from the rules it names): buffers in canonical
form and in bounds, `TX_VALID` and `IMG_VALID` backed by a well-formed frame and a complete raster, a running
CAPTURE at a position of R161, `ERRSTEP` only with a cause that can arise at that step (R24, R26, R28, R51, R96,
R166, R170). -/
def Obligations.StepKeepsTheStateCoherent : Prop :=
  ∀ s t : State, s.Coherent → step s = .next t → t.Coherent

/-- The trace is an initial part of R163's list after reset. -/
def Obligations.ResetTraceIsInitial : Prop := State.reset.TraceOk

/-- Every step keeps the trace an initial part of R163's list, and while a CAPTURE runs exactly as long as its
position says: strict alternation, and no command sent twice (R163, R167). -/
def Obligations.StepKeepsTheTraceInitial : Prop :=
  ∀ s t : State, s.TraceOk → step s = .next t → t.TraceOk

/-- While nothing runs no transport call is made (43_capture.md §3, 70_reset_and_hazards.md §3): the trace stays, or
is emptied by the start of a CAPTURE or by reset, and no answer of the transport is taken. So nothing is sent after
a failure, which leaves `BUSY = 0`. -/
def Obligations.NoCallIsMadeWhileNothingRuns : Prop :=
  ∀ s t : State, s.status.busy = false → step s = .next t →
    t.sendAnswers = s.sendAnswers ∧ t.recvAnswers = s.recvAnswers ∧
    (t.trace = s.trace ∨ (t.trace = [] ∧ ((∃ bytes rest, s.host = .issue .op bytes :: rest ∧
      decode .op bytes = .ok .capture) ∨ ∃ rest, s.host = .reset :: rest)))

/-! ## The machine's step, and the host -/

/-- A word the host issues while nothing runs is decoded and run: the step is exec of it, with the event consumed (and
the model's own counter moved on). That the host is a list of events is the model's choice (log 6). -/
def Obligations.StepRunsTheIssuedWord : Prop :=
  ∀ (s : State) (f : Format) (bytes : List Byte) (rest : List HostEvent) (i : Instr),
    s.host = .issue f bytes :: rest → s.status.busy = false → decode f bytes = .ok i →
    step s = exec i { s with host := rest, freeIdx := s.freeIdx + 1 }

/-- While a CAPTURE runs and the host waits, or lets it take one turn (after which its events go on), the word is the
frame the sequencer is to send, or the response the transport delivered, taken from its answers: the step is exec of
what it decodes to. A valid raster the host hands over is decoded from `IMGBUF` and run. That the host and the
transport are lists is the model's choice (logs 5, 6). -/
def Obligations.StepRunsTheWordOnTheWire : Prop :=
  (∀ (s : State) (h : List HostEvent) (q q' : SState) (k : CaptureStep),
    s.SequencerMoves h → s.status.busy = true → s.phase = .send →
    (q, k, q') ∈ sendRows → s.sstate = q → s.sendAnswers ≠ [] →
    decode .cf (wireFrame k) = .ok (stepInstr k) ∧
      step s = exec (stepInstr k) { s with host := h, freeIdx := s.freeIdx + 1 }) ∧
  (∀ (s : State) (h : List HostEvent) (q : SState) (k : CaptureStep) (r : List Byte) (rest : List RecvOutcome)
      (i : Instr),
    s.SequencerMoves h → s.status.busy = true → s.phase = .recv →
    (q, k) ∈ recvRows → s.sstate = q →
    s.recvAnswers = .data r :: rest → decode (if k = .four then .ir else .ar) r = .ok i →
    step s = exec i { s with host := h, recvAnswers := rest, freeIdx := s.freeIdx + 1 }) ∧
  (∀ (s : State) (rest : List HostEvent) (px : List Byte), s.host = .handOver :: rest →
    s.status.busy = false → s.status.imgValid = true → s.mem.read? .imgbuf 0 10240 = some px →
    decode .sf px = .ok (.sensorFrame px) ∧
      step s = exec (.sensorFrame px) { s with host := rest, freeIdx := s.freeIdx + 1 })

/-- While an operation runs (the spec's own decision D23, log 18) the machine refuses a write to `CMD` (R228), a
write of `CFG`, `TIMEOUT`, `PLEN`, `RXLEN`, `PBUF` or `RXBUF` (R232, R234), and a read of `TXBUF`, `TXLEN` or
`IMGBUF` (R232), the hand-over of the raster among them; it refuses a read of `SSTATE`, `PLEN`, `RXLEN`, `PBUF` or
`RXBUF` too, which is the model's reading (log 12); exec refuses to start any operation. -/
def Obligations.HostIsRefusedWhileBusy : Prop :=
  ∀ (s : State) (rest : List HostEvent), s.status.busy = true →
    (∀ f bytes, s.host = .issue f bytes :: rest → step s = .refused .busyCommand) ∧
    (∀ v, s.host = .write (.cfg v) :: rest → step s = .refused .busyAccess) ∧
    (∀ v, s.host = .write (.timeout v) :: rest → step s = .refused .busyAccess) ∧
    (∀ n, s.host = .write (.plen n) :: rest → step s = .refused .busyAccess) ∧
    (∀ n, s.host = .write (.rxlen n) :: rest → step s = .refused .busyAccess) ∧
    (∀ a bs, s.host = .write (.buffer .pbuf a bs) :: rest → step s = .refused .busyAccess) ∧
    (∀ a bs, s.host = .write (.buffer .rxbuf a bs) :: rest → step s = .refused .busyAccess) ∧
    (s.host = .read (.reg .txlen) :: rest → step s = .refused .busyAccess) ∧
    (∀ a n, s.host = .read (.buffer .txbuf a n) :: rest → step s = .refused .busyAccess) ∧
    (∀ a n, s.host = .read (.buffer .imgbuf a n) :: rest → step s = .refused .busyAccess) ∧
    (s.host = .handOver :: rest → step s = .refused .busyAccess) ∧
    (s.host = .read (.reg .sstate) :: rest → step s = .refused .busyAccess) ∧
    (s.host = .read (.reg .plen) :: rest → step s = .refused .busyAccess) ∧
    (s.host = .read (.reg .rxlen) :: rest → step s = .refused .busyAccess) ∧
    (∀ a n, s.host = .read (.buffer .pbuf a n) :: rest → step s = .refused .busyAccess) ∧
    (∀ a n, s.host = .read (.buffer .rxbuf a n) :: rest → step s = .refused .busyAccess) ∧
    exec .enc s = .refused .busyCommand ∧ exec .ack s = .refused .busyCommand ∧
    exec .img s = .refused .busyCommand ∧ exec .capture s = .refused .busyCommand

/-- While an operation runs exec refuses a frame and a response out of its turn (43_capture.md §3; which refusal is
the model's choice, log 19): the generic command frame always, as any ENC, a fixed frame wherever the sequencer is
not about to send it, and a response where no receive is outstanding. -/
def Obligations.FramesAndResponsesOutOfTurnAreRefused : Prop :=
  ∀ s : State, s.status.busy = true →
    (∀ p, exec (.cmdFrame p) s = .refused .busyCommand) ∧
    (∀ k, ¬ (s.phase = .send ∧ ∃ q', (s.sstate, k, q') ∈ sendRows) → exec (stepInstr k) s = .refused .notAtThisStep) ∧
    (¬ (s.phase = .recv ∧ ∃ k, (s.sstate, k) ∈ recvRows) →
      (∀ r, exec (.ackResp r) s = .refused .noReceiveOutstanding) ∧
      ∀ h px tr, exec (.imgResp h px tr) s = .refused .noReceiveOutstanding)

/-- Anything else that uses the transport while a CAPTURE runs is refused (R229); with nothing running only the
event is consumed, because the FCE takes no part (log 16). -/
def Obligations.OtherTransportUseIsRefusedDuringCapture : Prop :=
  ∀ (s : State) (rest : List HostEvent), s.host = .useTransport :: rest →
    (s.status.busy = true → step s = .refused .transportContended) ∧
    (s.status.busy = false → step s = .next { s with host := rest, freeIdx := s.freeIdx + 1 })

/-- 10_state.md §7 (the spec's own decision D16, log 18): every register at its reset value, no byte of any buffer
with a value, no operation pending; `TXLEN`, `TXBUF` and `IMGBUF` not readable, and a byte of `PBUF` or `RXBUF` that
the host has not written holds no value. -/
def Obligations.ResetLeavesAFreshSession : Prop :=
  State.reset.lenient = false ∧ State.reset.timeout = 1000#32 ∧
  State.reset.status = { busy := false, result := .none, errStep := none, txValid := false, imgValid := false } ∧
  State.reset.status.word = 0x000#9 ∧ State.reset.sstate = .idle ∧ State.reset.sstate.code = 0#3 ∧
  State.reset.plen = 0#9 ∧ State.reset.rxlen = 0#14 ∧
  (∀ sp a, State.reset.mem.byte? sp a = none) ∧
  step State.reset = .next State.reset ∧
  (∀ rest, step { State.reset with host := .read (.reg .txlen) :: rest } = .refused .noFrame) ∧
  (∀ rest a n, a + n ≤ 259 →
    step { State.reset with host := .read (.buffer .txbuf a n) :: rest } = .refused .noFrame) ∧
  (∀ rest a n, a + n ≤ 10240 →
    step { State.reset with host := .read (.buffer .imgbuf a n) :: rest } = .refused .noRaster) ∧
  (∀ rest a n, 1 ≤ n → a + n ≤ 255 →
    step { State.reset with host := .read (.buffer .pbuf a n) :: rest } = .fault (.noValue .pbuf)) ∧
  (∀ rest a n, 1 ≤ n → a + n ≤ 10246 →
    step { State.reset with host := .read (.buffer .rxbuf a n) :: rest } = .fault (.noValue .rxbuf))

/-- The host's reset (10_state.md §7, 70_reset_and_hazards.md §1; the spec's own decision D16, log 18; when it is
offered is the model's reading, log 15): at launch, while no operation has ended and none runs, every register takes
its reset value, no byte of any buffer holds a value, the trace is empty, and the agents outside go on; while an
operation runs, and after the first has ended, it is refused. -/
def Obligations.ResetActsOnlyAtLaunch : Prop :=
  ∀ (s : State) (rest : List HostEvent), s.host = .reset :: rest →
    (s.status.busy = true → step s = .refused .resetWhileBusy) ∧
    (s.status.busy = false → s.status.result ≠ .none → step s = .refused .resetAfterLaunch) ∧
    (s.status.busy = false → s.status.result = .none →
      ∃ t, step s = .next t ∧ t.lenient = false ∧ t.timeout = 1000#32 ∧
        t.status = { busy := false, result := .none, errStep := none, txValid := false, imgValid := false } ∧
        t.sstate = .idle ∧ t.plen = 0#9 ∧ t.rxlen = 0#14 ∧ (∀ sp a, t.mem.byte? sp a = none) ∧ t.trace = [] ∧
        t.host = rest ∧ t.sendAnswers = s.sendAnswers ∧ t.recvAnswers = s.recvAnswers ∧ t.observed = s.observed)

/-- `SSTATE` changes only where the sequencer of a running CAPTURE has the turn, at the start of a CAPTURE, or by
reset; ENC, ACK, IMG and every access of the host leave it, while a CAPTURE runs too (10_state.md §3). -/
def Obligations.SessionStateChangesOnlyByCapture : Prop :=
  ∀ s t : State, step s = .next t → t.sstate ≠ s.sstate →
    (s.status.busy = true ∧ ∃ h, s.SequencerMoves h) ∨
    (t.sstate = .idle ∧ ((∃ bytes rest, s.host = .issue .op bytes :: rest ∧
      decode .op bytes = .ok .capture) ∨ ∃ rest, s.host = .reset :: rest))

/-- Only the host writes the configuration: `CFG` and `TIMEOUT` change only by the host's write to them or by reset,
and then no operation is running (R29, R30, R234). -/
def Obligations.ConfigurationChangesOnlyByTheHost : Prop :=
  ∀ s t : State, step s = .next t → (t.lenient ≠ s.lenient ∨ t.timeout ≠ s.timeout) →
    s.status.busy = false ∧
      ((∃ v rest, s.host = .write (.cfg v) :: rest ∧ t.lenient = v.getLsbD 0 ∧ t.timeout = s.timeout) ∨
       (∃ v rest, s.host = .write (.timeout v) :: rest ∧ t.timeout = v ∧ t.lenient = s.lenient) ∨
       (∃ rest, s.host = .reset :: rest))

/-- Error entry of each operation (60_exceptions.md §2, the spec's own decision D6, log 18), as one operation of the
model: the code, the step, the valid bit of the result
that is absent, `SSTATE <- Failed` for CAPTURE, `BUSY <- 0`; no other register, no buffer, no other valid bit. -/
def Obligations.ErrorEntryWritesStatusOnly : Prop :=
  ∀ (s : State) (op : Operation) (e : FceError) (k : Option CaptureStep),
    (s.raiseError op e k).status.busy = false ∧
    (s.raiseError op e k).status.result = .err e ∧
    (s.raiseError op e k).status.errStep = k ∧
    (s.raiseError op e k).status.txValid = (if op = .enc then false else s.status.txValid) ∧
    (s.raiseError op e k).status.imgValid = (if op = .img ∨ op = .capture then false else s.status.imgValid) ∧
    (s.raiseError op e k).sstate = (if op = .capture then .failed else s.sstate) ∧
    (s.raiseError op e k).mem = s.mem ∧ (s.raiseError op e k).plen = s.plen ∧ (s.raiseError op e k).txlen = s.txlen ∧
    (s.raiseError op e k).rxlen = s.rxlen ∧ (s.raiseError op e k).trace = s.trace ∧ (s.raiseError op e k).cmd = s.cmd ∧
    s.SameConfig (s.raiseError op e k) ∧ s.SameOutside (s.raiseError op e k)

/-- Host writes (10_state.md §1, §5, 20_memory.md §1). While nothing runs: bit 0 of `CFG` is taken, `TIMEOUT` takes
any value, `PLEN` and `RXLEN` saturate, bytes inside `PBUF` and `RXBUF` are stored. At any time, while an operation
runs too: a write to `STATUS` is ignored, and, by the model's reading (log 11), so is one to `SSTATE` or `TXLEN`, or
inside `TXBUF` or `IMGBUF`, which the host cannot write. Outside the bounds of a buffer a write faults, which is the
model's reading of a refusal (log 9). -/
def Obligations.HostWritesTakeEffect : Prop :=
  ∀ (s : State) (rest : List HostEvent) (w : HostWrite), s.host = .write w :: rest →
    (∀ v, w = .cfg v → s.status.busy = false →
      step s = .next { s with host := rest, freeIdx := s.freeIdx + 1, lenient := v.getLsbD 0 }) ∧
    (∀ v, w = .timeout v → s.status.busy = false →
      step s = .next { s with host := rest, freeIdx := s.freeIdx + 1, timeout := v }) ∧
    (∀ n, w = .plen n → s.status.busy = false →
      ∃ l, step s = .next { s with host := rest, freeIdx := s.freeIdx + 1, plen := l } ∧ l.toNat = min n 511) ∧
    (∀ n, w = .rxlen n → s.status.busy = false →
      ∃ l, step s = .next { s with host := rest, freeIdx := s.freeIdx + 1, rxlen := l } ∧ l.toNat = min n 16383) ∧
    (∀ sp a bs, w = .buffer sp a bs → (sp = .pbuf ∨ sp = .rxbuf) → s.status.busy = false → a + bs.length ≤ sp.size →
      ∃ m, step s = .next { s with host := rest, freeIdx := s.freeIdx + 1, mem := m } ∧
        ∀ sq x, m.byte? sq x = if sq = sp ∧ a ≤ x ∧ x < a + bs.length then bs[x - a]? else s.mem.byte? sq x) ∧
    (∀ v, w = .status v → step s = .next { s with host := rest, freeIdx := s.freeIdx + 1 }) ∧
    (∀ v, w = .sstate v → step s = .next { s with host := rest, freeIdx := s.freeIdx + 1 }) ∧
    (∀ n, w = .txlen n → step s = .next { s with host := rest, freeIdx := s.freeIdx + 1 }) ∧
    (∀ sp a bs, w = .buffer sp a bs → (sp = .txbuf ∨ sp = .imgbuf) → a + bs.length ≤ sp.size →
      step s = .next { s with host := rest, freeIdx := s.freeIdx + 1 }) ∧
    (∀ sp a bs, w = .buffer sp a bs → (sp = .txbuf ∨ sp = .imgbuf ∨ s.status.busy = false) →
      sp.size < a + bs.length → step s = .fault (.outOfBounds sp))

/-- A host read changes nothing (20_memory.md §4; that a second read of `CMD` repeats the first is the model's choice,
log 2): where it answers, only the event is consumed and what was read is observed; the
same read again answers the same value. -/
def Obligations.HostReadsChangeNothing : Prop :=
  ∀ (s t : State) (r : HostRead) (rest : List HostEvent), s.host = .read r :: rest → step s = .next t →
    ∃ o, t = { s with host := rest, observed := some o } ∧
      ∀ rest', step { t with host := .read r :: rest' } = .next { t with host := rest' }

/-- What host reads return (10_state.md §1 to §5): `STATUS` at any time reads as
`BUSY + 2*RESULT + 16*ERRSTEP + 128*TX_VALID + 256*IMG_VALID`; `CFG` as `LENIENT` with every other bit 0; the other
registers as they are, `TXLEN` while there is a frame; a valid frame and raster as the buffers hold them, and, which the
spec implies only (log 14), `PBUF` and `RXBUF` too. -/
def Obligations.HostReadsReturnTheRegisters : Prop :=
  ∀ (s : State) (rest : List HostEvent),
    (s.host = .read (.reg .status) :: rest →
      step s = .next { s with host := rest, observed := some (.word
        (s.status.busy.toNat + 2 * s.status.result.code.toNat + 16 * (errStepCode s.status.errStep).toNat +
          128 * s.status.txValid.toNat + 256 * s.status.imgValid.toNat)) }) ∧
    (s.host = .read (.reg .cfg) :: rest →
      step s = .next { s with host := rest, observed := some (.word s.lenient.toNat) }) ∧
    (s.host = .read (.reg .timeout) :: rest →
      step s = .next { s with host := rest, observed := some (.word s.timeout.toNat) }) ∧
    (s.host = .read (.reg .sstate) :: rest → s.status.busy = false →
      step s = .next { s with host := rest, observed := some (.word s.sstate.code.toNat) }) ∧
    (s.host = .read (.reg .plen) :: rest → s.status.busy = false →
      step s = .next { s with host := rest, observed := some (.word s.plen.toNat) }) ∧
    (s.host = .read (.reg .rxlen) :: rest → s.status.busy = false →
      step s = .next { s with host := rest, observed := some (.word s.rxlen.toNat) }) ∧
    (s.host = .read (.reg .txlen) :: rest → s.status.busy = false → s.status.txValid = true →
      step s = .next { s with host := rest, observed := some (.word s.txlen.toNat) }) ∧
    (∀ sp a n bs, s.host = .read (.buffer sp a n) :: rest → (sp = .pbuf ∨ sp = .rxbuf) → s.status.busy = false →
      a + n ≤ sp.size → s.mem.read? sp a n = some bs →
      step s = .next { s with host := rest, observed := some (.bytes bs) }) ∧
    (∀ a n bs, s.host = .read (.buffer .txbuf a n) :: rest → s.status.busy = false → s.status.txValid = true →
      a + n ≤ s.txlen.toNat → s.txlen.toNat ≤ 259 → s.mem.read? .txbuf a n = some bs →
      step s = .next { s with host := rest, observed := some (.bytes bs) }) ∧
    (∀ a n bs, s.host = .read (.buffer .imgbuf a n) :: rest → s.status.busy = false → s.status.imgValid = true →
      a + n ≤ 10240 → s.mem.read? .imgbuf a n = some bs →
      step s = .next { s with host := rest, observed := some (.bytes bs) })

/-- A read of a result that is marked absent is refused, and of a byte that holds no value faults (20_memory.md §3).
-/
def Obligations.AbsentValuesAreNotRead : Prop :=
  ∀ (s : State) (rest : List HostEvent) (a n : Nat), s.status.busy = false →
    (s.host = .read (.reg .txlen) :: rest → s.status.txValid = false → step s = .refused .noFrame) ∧
    (s.host = .read (.buffer .txbuf a n) :: rest → s.status.txValid = false → a + n ≤ 259 →
      step s = .refused .noFrame) ∧
    (s.host = .read (.buffer .imgbuf a n) :: rest → s.status.imgValid = false → a + n ≤ 10240 →
      step s = .refused .noRaster) ∧
    (∀ x, s.mem.wf → s.host = .read (.buffer .pbuf a n) :: rest → a + n ≤ 255 → a ≤ x → x < a + n →
      s.mem.byte? .pbuf x = none → step s = .fault (.noValue .pbuf)) ∧
    (∀ x, s.mem.wf → s.host = .read (.buffer .rxbuf a n) :: rest → a + n ≤ 10246 → a ≤ x → x < a + n →
      s.mem.byte? .rxbuf x = none → step s = .fault (.noValue .rxbuf))

/-- A read of the write-only `CMD` completes with a value of two bits, which nothing determines (R31, U18; log 2). -/
def Obligations.ReadOfCmdReturnsSomeValue : Prop :=
  ∀ (s : State) (rest : List HostEvent), s.host = .read (.reg .cmd) :: rest →
    ∃ v : BitVec 2, step s = .next { s with host := rest, observed := some (.word v.toNat) }

/-- `MemRead` and `MemWrite` (00_scope.md §5, 10_state.md §2): in canonical form, a write reads back whole, every
other byte of that buffer and every byte of the other three reads as before, and the canonical form is kept. -/
def Obligations.BufferWritesReadBackAndAreDisjoint : Prop :=
  ∀ (m : Memory) (sp : Space) (a : Nat) (vs : List Byte), m.wf → a + vs.length ≤ sp.size →
    (m.write sp a vs).read? sp a vs.length = some vs ∧
    (∀ x, x < a ∨ a + vs.length ≤ x → (m.write sp a vs).byte? sp x = m.byte? sp x) ∧
    (∀ sq b n, sq ≠ sp → (m.write sp a vs).read? sq b n = m.read? sq b n) ∧
    (m.write sp a vs).wf
end

