-- ==== Sys2Proof/Laws/Decode.lean ====
section
/-! SUPPORT. Laws of the decoder and the encoder that the laws of the machine rest on. -/

namespace Sys2Proof

@[simp] theorem frameOf_length (p : List Byte) : (frameOf p).length = p.length + 4 := by
  simp [frameOf]

theorem cmdPayload_length_pos (k : CaptureStep) : 1 ≤ (cmdPayload k).length := by cases k <;> decide

theorem cmdPayload_length_le (k : CaptureStep) : (cmdPayload k).length ≤ 4 := by cases k <;> decide

theorem frameOf_cmdPayload (k : CaptureStep) : frameOf (cmdPayload k) = Machine.wireFrame k := by cases k <;> decide

theorem frameInstr_cmdPayload (k : CaptureStep) : frameInstr (cmdPayload k) = Machine.stepInstr k := by
  cases k <;> decide

theorem foldl_xor (bs : List Byte) (c : Byte) : bs.foldl (· ^^^ ·) c = c ^^^ xorAll bs := by
  induction bs generalizing c with
  | nil => simp [xorAll]
  | cons b bs ih =>
    simp only [xorAll, List.foldl_cons] at *
    rw [ih, ih (0#8 ^^^ b)]
    simp [BitVec.xor_assoc]

theorem xorAll_cons (b : Byte) (bs : List Byte) : xorAll (b :: bs) = b ^^^ xorAll bs := by
  rw [xorAll, List.foldl_cons, foldl_xor]; simp

theorem xorAll_append (bs cs : List Byte) : xorAll (bs ++ cs) = xorAll bs ^^^ xorAll cs := by
  induction bs with
  | nil => simp [xorAll]
  | cons b bs ih => rw [List.cons_append, xorAll_cons, ih, xorAll_cons, BitVec.xor_assoc]

theorem checksum_eq (p : List Byte) : checksum p = BitVec.ofNat 8 p.length ^^^ xorAll p := foldl_xor _ _

/-- Length, payload and checksum cancel (R96). -/
theorem xorAll_frame_body (p : List Byte) : xorAll (BitVec.ofNat 8 p.length :: (p ++ [checksum p])) = 0#8 := by
  rw [xorAll_cons, xorAll_append, checksum_eq, xorAll_cons]
  generalize BitVec.ofNat 8 p.length = n
  generalize xorAll p = x
  simp only [xorAll, List.foldl_nil, BitVec.xor_zero]
  rw [← BitVec.xor_assoc, BitVec.xor_self]

theorem payloadOk_iff (p : List Byte) : payloadOk p = true ↔ 1 ≤ p.length ∧ p.length ≤ 255 := by simp [payloadOk]

theorem lengthByte_toNat {n : Nat} (h : n ≤ 255) : (BitVec.ofNat 8 n).toNat = n := by
  rw [BitVec.toNat_ofNat]; omega

theorem lengthByte_ne_zero {n : Nat} (h1 : 1 ≤ n) (h2 : n ≤ 255) : BitVec.ofNat 8 n ≠ 0#8 := by
  intro he
  have h := congrArg BitVec.toNat he
  rw [lengthByte_toNat h2] at h
  have h0 : (0#8).toNat = 0 := rfl
  omega

/-- The frame of a payload decodes to the row of that payload. -/
theorem decode_frameOf {p : List Byte} (h : payloadOk p = true) : decode .cf (frameOf p) = .ok (frameInstr p) := by
  obtain ⟨h1, h2⟩ := (payloadOk_iff p).mp h
  have hlen := lengthByte_toNat h2
  have hne := lengthByte_ne_zero h1 h2
  have hx := xorAll_frame_body p
  simp only [decode, frameOf, List.cons_append, List.nil_append, decodeFrame]
  rw [if_neg (by simp), if_neg (by simp), if_neg hne, if_neg (by simp [hlen]), if_neg (by simp [hx]), hlen]
  simp

/-- The frame of a payload is well formed (R96). -/
theorem isCommandFrame_frameOf {p : List Byte} (h : payloadOk p = true) : isCommandFrame (frameOf p) = true := by
  obtain ⟨h1, h2⟩ := (payloadOk_iff p).mp h
  have hlen := lengthByte_toNat h2
  have hne := lengthByte_ne_zero h1 h2
  have hx := xorAll_frame_body p
  simp only [frameOf, List.cons_append, List.nil_append, isCommandFrame]
  simp [hlen, hne, hx]

/-- The frame of a capture step decodes to that step's instruction. -/
theorem decode_cmdPayload (k : CaptureStep) : decode .cf (frameOf (cmdPayload k)) = .ok (Machine.stepInstr k) := by
  rw [decode_frameOf (by cases k <;> decide), frameInstr_cmdPayload]

end Sys2Proof
end

