-- ==== Sys2Proof/Laws/Memory.lean ====
section
/-! SUPPORT. Laws of the buffers: what a write reads back as, what it leaves alone, that it keeps the canonical form, and
what a read of several bytes says about each. -/

namespace Sys2Proof.Machine

/-! ## One buffer -/

theorem cellsFrom_length (a : Nat) (vs : List Byte) : (cellsFrom a vs).length = vs.length := by
  induction vs generalizing a with
  | nil => rfl
  | cons v vs ih => simp [cellsFrom, ih]

theorem mem_cellsFrom_bounds {a : Nat} {vs : List Byte} {c : Host.Cell} (h : c ∈ cellsFrom a vs) :
    a ≤ c.1 ∧ c.1 < a + vs.length := by
  induction vs generalizing a with
  | nil => simp [cellsFrom] at h
  | cons v vs ih =>
    simp only [cellsFrom, List.mem_cons] at h
    rcases h with rfl | h
    · simp
    · have := ih h
      simp only [List.length_cons]
      omega

theorem cellsFrom_rising (a : Nat) (vs : List Byte) : (cellsFrom a vs).Pairwise (fun c d => c.1 < d.1) := by
  induction vs generalizing a with
  | nil => exact List.Pairwise.nil
  | cons v vs ih =>
    refine List.Pairwise.cons (fun d hd => ?_) (ih (a + 1))
    have := (mem_cellsFrom_bounds hd).1
    simp only
    omega

theorem byte?_append (b c : Buffer) (a : Nat) :
    Buffer.byte? (b ++ c) a = (Buffer.byte? b a).or (Buffer.byte? c a) := by
  induction b with
  | nil => rfl
  | cons x b ih =>
    obtain ⟨k, v⟩ := x
    simp only [List.cons_append, Buffer.byte?]
    split
    · rfl
    · exact ih

theorem byte?_eq_none_of_forall {b : Buffer} {a : Nat} (h : ∀ c ∈ b, c.1 ≠ a) : Buffer.byte? b a = none := by
  induction b with
  | nil => rfl
  | cons x b ih =>
    obtain ⟨k, v⟩ := x
    simp only [Buffer.byte?]
    rw [if_neg (h (k, v) (by simp)), ih (fun c hc => h c (by simp [hc]))]

theorem byte?_filter_of_pos {b : Buffer} {p : Nat → Bool} {a : Nat} (h : p a = true) :
    Buffer.byte? (b.filter (fun c => p c.1)) a = Buffer.byte? b a := by
  induction b with
  | nil => rfl
  | cons x b ih =>
    obtain ⟨k, v⟩ := x
    by_cases hk : k = a
    · subst hk; simp [h, Buffer.byte?]
    · by_cases hp : p k <;> simp [hp, Buffer.byte?, hk, ih]

theorem byte?_filter_of_neg {b : Buffer} {p : Nat → Bool} {a : Nat} (h : p a = false) :
    Buffer.byte? (b.filter (fun c => p c.1)) a = none := by
  refine byte?_eq_none_of_forall (fun c hc => ?_)
  rintro rfl
  simp [h] at hc

theorem byte?_cellsFrom (a i : Nat) (vs : List Byte) : Buffer.byte? (cellsFrom a vs) (a + i) = vs[i]? := by
  induction vs generalizing a i with
  | nil => rfl
  | cons v vs ih =>
    simp only [cellsFrom, Buffer.byte?]
    cases i with
    | zero => simp
    | succ i =>
      rw [if_neg (by omega), show a + (i + 1) = (a + 1) + i by omega, ih]
      rfl

/-- A write reads back: inside it the written byte, outside what was there before. -/
theorem byte?_write (b : Buffer) (a : Nat) (vs : List Byte) (x : Nat) :
    (b.write a vs).byte? x = if a ≤ x ∧ x < a + vs.length then vs[x - a]? else b.byte? x := by
  unfold Buffer.write
  rw [byte?_append, byte?_append]
  rcases Nat.lt_or_ge x a with hlt | hge
  · rw [byte?_filter_of_pos (p := fun n => decide (n < a)) (by simpa using hlt),
      byte?_filter_of_neg (p := fun n => decide (a + vs.length ≤ n)) (by simp; omega),
      byte?_eq_none_of_forall (b := cellsFrom a vs) (fun c hc => by have := mem_cellsFrom_bounds hc; omega)]
    rw [if_neg (by omega)]; simp
  · rw [byte?_filter_of_neg (p := fun n => decide (n < a)) (by simp; omega)]
    obtain ⟨i, rfl⟩ := Nat.exists_eq_add_of_le hge
    rw [byte?_cellsFrom]
    rcases Nat.lt_or_ge i vs.length with hi | hi
    · rw [byte?_filter_of_neg (p := fun n => decide (a + vs.length ≤ n)) (by simp; omega), if_pos (by omega)]
      simp
    · rw [byte?_filter_of_pos (p := fun n => decide (a + vs.length ≤ n)) (by simp; omega), if_neg (by omega),
        List.getElem?_eq_none hi]
      simp

theorem byte?_write_outside {b : Buffer} {a x : Nat} {vs : List Byte} (h : x < a ∨ a + vs.length ≤ x) :
    (b.write a vs).byte? x = b.byte? x := by
  rw [byte?_write, if_neg (by omega)]

/-- A write inside the buffer keeps the canonical form. -/
theorem Buffer.wf_write {size : Nat} {b : Buffer} {a : Nat} {vs : List Byte} (hb : Buffer.wf size b)
    (h : a + vs.length ≤ size) : Buffer.wf size (b.write a vs) := by
  obtain ⟨hp, hlt⟩ := hb
  constructor
  · unfold Buffer.write
    rw [List.pairwise_append, List.pairwise_append]
    refine ⟨⟨hp.filter _, cellsFrom_rising a vs, ?_⟩, hp.filter _, ?_⟩
    · intro c hc d hd
      have h1 : c.1 < a := by simpa using (List.mem_filter.mp hc).2
      have h2 := mem_cellsFrom_bounds hd
      omega
    · intro c hc d hd
      have h2 : a + vs.length ≤ d.1 := by simpa using (List.mem_filter.mp hd).2
      rcases List.mem_append.mp hc with hc | hc
      · have h1 : c.1 < a := by simpa using (List.mem_filter.mp hc).2
        omega
      · have := mem_cellsFrom_bounds hc
        omega
  · intro c hc
    unfold Buffer.write at hc
    simp only [List.mem_append] at hc
    rcases hc with (hc | hc) | hc
    · exact hlt c (List.mem_filter.mp hc).1
    · have := mem_cellsFrom_bounds hc
      omega
    · exact hlt c (List.mem_filter.mp hc).1

/-- What has been gathered stands before what is still to come. -/
theorem gather_eq (b : Buffer) (a n : Nat) (acc : List Byte) :
    b.gather a n acc = (b.bytes? a n).map (acc.reverse ++ ·) := by
  unfold Buffer.bytes?
  induction b generalizing a n acc with
  | nil => cases n <;> simp [Buffer.gather]
  | cons x b ih =>
    obtain ⟨k, v⟩ := x
    cases n with
    | zero => simp [Buffer.gather]
    | succ n =>
      simp only [Buffer.gather]
      split
      · exact ih _ _ _
      · split
        · rw [ih _ _ (v :: acc), ih _ _ [v], Option.map_map]
          congr 1
          funext vs
          simp
        · rfl

theorem bytes?_zero (b : Buffer) (a : Nat) : b.bytes? a 0 = some [] := by cases b <;> rfl

theorem bytes?_nil (a n : Nat) : Buffer.bytes? [] a (n + 1) = none := rfl

theorem bytes?_cons (k : Nat) (v : Byte) (b : Buffer) (a n : Nat) :
    Buffer.bytes? ((k, v) :: b) a (n + 1) =
      if k < a then b.bytes? a (n + 1) else if k = a then (b.bytes? (a + 1) n).map (v :: ·) else none := by
  conv => lhs; unfold Buffer.bytes?
  simp only [Buffer.gather, gather_eq]
  split
  · simp
  · split <;> rfl

theorem bytes?_length {b : Buffer} {a n : Nat} {vs : List Byte} (h : b.bytes? a n = some vs) : vs.length = n := by
  induction b generalizing a n vs with
  | nil => cases n <;> simp_all [bytes?_zero, bytes?_nil]
  | cons x b ih =>
    obtain ⟨k, v⟩ := x
    cases n with
    | zero => simp_all [bytes?_zero]
    | succ n =>
      simp only [bytes?_cons] at h
      split at h
      · exact ih h
      · split at h
        · obtain ⟨w, hw, rfl⟩ := Option.map_eq_some_iff.mp h
          simp [ih hw]
        · cases h

/-- In canonical form, reading `n` bytes is reading each of them. -/
theorem bytes?_eq_some_iff {b : Buffer} (hb : b.Pairwise (fun c d => c.1 < d.1)) {a n : Nat} {vs : List Byte} :
    b.bytes? a n = some vs ↔ vs.length = n ∧ ∀ i, i < n → b.byte? (a + i) = vs[i]? := by
  induction b generalizing a n vs with
  | nil =>
    cases n with
    | zero => cases vs <;> simp [bytes?_zero]
    | succ n =>
      simp only [bytes?_nil, Buffer.byte?, reduceCtorEq, false_iff, not_and]
      intro hl hall
      have := hall 0 (by omega)
      rw [List.getElem?_eq_getElem (by omega)] at this
      cases this
  | cons x b ih =>
    obtain ⟨k, v⟩ := x
    have htail := hb.of_cons
    have hhead : ∀ c ∈ b, k < c.1 := fun c hc => List.rel_of_pairwise_cons hb hc
    cases n with
    | zero => cases vs <;> simp [bytes?_zero]
    | succ n =>
      simp only [bytes?_cons]
      by_cases h1 : k < a
      · rw [if_pos h1, ih htail]
        refine and_congr_right (fun _ => forall_congr' (fun i => imp_congr_right (fun _ => ?_)))
        rw [Buffer.byte?, if_neg (by omega)]
      · rw [if_neg h1]
        by_cases h2 : k = a
        · subst h2
          rw [if_pos rfl, Option.map_eq_some_iff]
          constructor
          · rintro ⟨w, hw, rfl⟩
            obtain ⟨hl, hall⟩ := (ih htail).mp hw
            refine ⟨by simp [hl], fun i hi => ?_⟩
            cases i with
            | zero => simp [Buffer.byte?]
            | succ i =>
              rw [Buffer.byte?, if_neg (by omega), show k + (i + 1) = k + 1 + i by omega, hall i (by omega)]
              rfl
          · rintro ⟨hl, hall⟩
            cases vs with
            | nil => simp at hl
            | cons w vs =>
              have h0 := hall 0 (by omega)
              simp [Buffer.byte?] at h0
              subst h0
              refine ⟨vs, (ih htail).mpr ⟨by simpa using hl, fun i hi => ?_⟩, rfl⟩
              have := hall (i + 1) (by omega)
              rw [Buffer.byte?, if_neg (by omega), show k + (i + 1) = k + 1 + i by omega] at this
              simpa using this
        · rw [if_neg h2]
          simp only [reduceCtorEq, false_iff, not_and]
          intro hl hall
          have h0 := hall 0 (by omega)
          rw [Buffer.byte?, if_neg (by omega), byte?_eq_none_of_forall (fun c hc => by have := hhead c hc; omega),
            List.getElem?_eq_getElem (by omega)] at h0
          cases h0

theorem bytes?_cellsFrom_append (vs : List Byte) (c : Buffer) (a n : Nat) (h : n ≤ vs.length) :
    Buffer.bytes? (cellsFrom a vs ++ c) a n = some (vs.take n) := by
  induction vs generalizing a n with
  | nil =>
    obtain rfl : n = 0 := by simpa using h
    cases c <;> rfl
  | cons v vs ih =>
    cases n with
    | zero => rfl
    | succ n =>
      simp only [cellsFrom, List.cons_append, bytes?_cons, Nat.lt_irrefl, if_false, if_true]
      rw [ih (a + 1) n (by simpa using h)]
      rfl

theorem bytes?_cellsFrom_skip (vs : List Byte) (c : Buffer) (a j n : Nat) (h : j + n ≤ vs.length) :
    Buffer.bytes? (cellsFrom a vs ++ c) (a + j) n = some ((vs.drop j).take n) := by
  induction vs generalizing a j with
  | nil =>
    obtain ⟨rfl, rfl⟩ : j = 0 ∧ n = 0 := by simpa using h
    cases c <;> rfl
  | cons v vs ih =>
    cases j with
    | zero => simpa using bytes?_cellsFrom_append (v :: vs) c a n (by omega)
    | succ j =>
      cases n with
      | zero => simp [bytes?_zero]
      | succ n =>
        simp only [cellsFrom, List.cons_append, bytes?_cons]
        rw [if_pos (by omega), show a + (j + 1) = (a + 1) + j by omega, ih (a + 1) j (by simp at h; omega)]
        rfl

/-- What was written at index 0 is read back, from any index inside it: no condition on the buffer before. -/
theorem bytes?_write_zero (b : Buffer) (vs : List Byte) (j n : Nat) (h : j + n ≤ vs.length) :
    (b.write 0 vs).bytes? j n = some ((vs.drop j).take n) := by
  have hf : b.filter (fun c => decide (c.1 < 0)) = [] := by simp
  unfold Buffer.write
  rw [hf, List.nil_append]
  simpa using bytes?_cellsFrom_skip vs (b.filter (fun c => decide (0 + vs.length ≤ c.1))) 0 j n h

/-- Writing the same bytes at index 0 again changes nothing. -/
theorem Buffer.write_zero_again (b : Buffer) (vs : List Byte) : (b.write 0 vs).write 0 vs = b.write 0 vs := by
  have h0 : ∀ c : Buffer, c.filter (fun c => decide (c.1 < 0)) = [] := by intro c; simp
  have hc : (cellsFrom 0 vs).filter (fun c => decide (0 + vs.length ≤ c.1)) = [] := by
    rw [List.filter_eq_nil_iff]
    intro c hc
    have := mem_cellsFrom_bounds hc
    simp only [decide_eq_true_eq]
    omega
  unfold Buffer.write
  rw [h0, h0, List.nil_append, List.filter_append, hc, List.filter_filter]
  simp

/-- In canonical form a read depends on the bytes it reads alone. -/
theorem bytes?_congr {b c : Buffer} (hb : b.Pairwise (fun c d => c.1 < d.1)) (hc : c.Pairwise (fun c d => c.1 < d.1))
    {a n : Nat} (h : ∀ x, a ≤ x → x < a + n → c.byte? x = b.byte? x) : c.bytes? a n = b.bytes? a n := by
  apply Option.ext
  intro vs
  rw [bytes?_eq_some_iff hb, bytes?_eq_some_iff hc]
  refine and_congr_right fun _ => forall_congr' fun i => imp_congr_right fun hi => ?_
  rw [h _ (by omega) (by omega)]

/-! ## The four buffers -/

@[simp] theorem Memory.write_buffer_same (m : Memory) (sp : Space) (a : Nat) (vs : List Byte) :
    (m.write sp a vs).buffer sp = (m.buffer sp).write a vs := by cases sp <;> rfl

theorem Memory.write_buffer_other (m : Memory) {sp sq : Space} (a : Nat) (vs : List Byte) (h : sq ≠ sp) :
    (m.write sp a vs).buffer sq = m.buffer sq := by
  cases sp <;> cases sq <;> first | rfl | exact absurd rfl h

theorem Memory.byte?_write_same (m : Memory) (sp : Space) (a : Nat) (vs : List Byte) (x : Nat) :
    (m.write sp a vs).byte? sp x = if a ≤ x ∧ x < a + vs.length then vs[x - a]? else m.byte? sp x := by
  simp only [Memory.byte?, Memory.write_buffer_same, byte?_write]

theorem Memory.byte?_write_other (m : Memory) {sp sq : Space} (a : Nat) (vs : List Byte) (x : Nat) (h : sq ≠ sp) :
    (m.write sp a vs).byte? sq x = m.byte? sq x := by
  simp only [Memory.byte?, Memory.write_buffer_other m a vs h]

theorem Memory.read?_write_zero (m : Memory) (sp : Space) (vs : List Byte) (j n : Nat) (h : j + n ≤ vs.length) :
    (m.write sp 0 vs).read? sp j n = some ((vs.drop j).take n) := by
  simp only [Memory.read?, Memory.write_buffer_same, bytes?_write_zero _ _ _ _ h]

theorem Memory.read?_write_other (m : Memory) {sp sq : Space} (a : Nat) (vs : List Byte) (j n : Nat) (h : sq ≠ sp) :
    (m.write sp a vs).read? sq j n = m.read? sq j n := by
  simp only [Memory.read?, Memory.write_buffer_other m a vs h]

@[simp] theorem Memory.read?_zero (m : Memory) (sp : Space) (a : Nat) : m.read? sp a 0 = some [] := by
  simp only [Memory.read?]
  cases m.buffer sp <;> rfl

theorem Memory.read?_length {m : Memory} {sp : Space} {a n : Nat} {vs : List Byte} (h : m.read? sp a n = some vs) :
    vs.length = n := bytes?_length h

/-- What was written whole at index 0 reads back whole. -/
theorem Memory.read?_write_all {m : Memory} {sp : Space} {vs : List Byte} {n : Nat} (h : vs.length = n) :
    (m.write sp 0 vs).read? sp 0 n = some vs := by
  rw [Memory.read?_write_zero _ _ _ _ _ (by omega), List.drop_zero, List.take_of_length_le (by omega)]

theorem Memory.buffer_rising {m : Memory} (hm : m.wf) (sp : Space) :
    (m.buffer sp).Pairwise (fun c d => c.1 < d.1) := by
  obtain ⟨⟨h1, _⟩, ⟨h2, _⟩, ⟨h3, _⟩, ⟨h4, _⟩⟩ := hm
  cases sp <;> assumption

/-- A read that covers a byte without a value has none (R55). -/
theorem Memory.read?_none {m : Memory} (hm : m.wf) {sp : Space} {a n x : Nat} (h1 : a ≤ x) (h2 : x < a + n)
    (h : m.byte? sp x = none) : m.read? sp a n = none := by
  cases hr : m.read? sp a n with
  | none => rfl
  | some vs =>
    obtain ⟨hl, hall⟩ := (bytes?_eq_some_iff (Memory.buffer_rising hm sp)).mp hr
    have := hall (x - a) (by omega)
    rw [show a + (x - a) = x by omega] at this
    rw [Memory.byte?] at h
    rw [h, List.getElem?_eq_getElem (by omega)] at this
    cases this

/-- Every write inside a buffer keeps the canonical form of all four. -/
theorem Memory.wf_write {m : Memory} {sp : Space} {a : Nat} {vs : List Byte} (hm : m.wf)
    (h : a + vs.length ≤ sp.size) : (m.write sp a vs).wf := by
  obtain ⟨h1, h2, h3, h4⟩ := hm
  cases sp
  · exact ⟨Buffer.wf_write h1 h, h2, h3, h4⟩
  · exact ⟨h1, Buffer.wf_write h2 h, h3, h4⟩
  · exact ⟨h1, h2, Buffer.wf_write h3 h, h4⟩
  · exact ⟨h1, h2, h3, Buffer.wf_write h4 h⟩

theorem Memory.wf_blank : Memory.blank.wf := by decide

theorem State.reset_mem_wf : State.reset.mem.wf := Memory.wf_blank

end Sys2Proof.Machine
end

