-- ==== Sys2Proof/Laws/State.lean ====
section
/-! SUPPORT. One lemma per field per update of State, so that no proof unfolds a record update. -/

namespace Sys2Proof.Machine

variable (s : State)

/-! `State.latch` -/

@[simp] theorem State.latch_lenient (op : Operation) : (s.latch op).lenient = s.lenient := rfl
@[simp] theorem State.latch_timeout (op : Operation) : (s.latch op).timeout = s.timeout := rfl
@[simp] theorem State.latch_cmd (op : Operation) : (s.latch op).cmd = op.code := rfl
@[simp] theorem State.latch_status (op : Operation) : (s.latch op).status = s.status := rfl
@[simp] theorem State.latch_sstate (op : Operation) : (s.latch op).sstate = s.sstate := rfl
@[simp] theorem State.latch_phase (op : Operation) : (s.latch op).phase = s.phase := rfl
@[simp] theorem State.latch_plen (op : Operation) : (s.latch op).plen = s.plen := rfl
@[simp] theorem State.latch_txlen (op : Operation) : (s.latch op).txlen = s.txlen := rfl
@[simp] theorem State.latch_rxlen (op : Operation) : (s.latch op).rxlen = s.rxlen := rfl
@[simp] theorem State.latch_mem (op : Operation) : (s.latch op).mem = s.mem := rfl
@[simp] theorem State.latch_host (op : Operation) : (s.latch op).host = s.host := rfl
@[simp] theorem State.latch_sendAnswers (op : Operation) : (s.latch op).sendAnswers = s.sendAnswers := rfl
@[simp] theorem State.latch_recvAnswers (op : Operation) : (s.latch op).recvAnswers = s.recvAnswers := rfl
@[simp] theorem State.latch_trace (op : Operation) : (s.latch op).trace = s.trace := rfl
@[simp] theorem State.latch_observed (op : Operation) : (s.latch op).observed = s.observed := rfl
@[simp] theorem State.latch_freeIdx (op : Operation) : (s.latch op).freeIdx = s.freeIdx := rfl

/-! `State.raiseError` -/

@[simp] theorem State.raiseError_lenient (op : Operation) (e : FceError) (k : Option CaptureStep) : (s.raiseError op e k).lenient = s.lenient := by cases op <;> rfl
@[simp] theorem State.raiseError_timeout (op : Operation) (e : FceError) (k : Option CaptureStep) : (s.raiseError op e k).timeout = s.timeout := by cases op <;> rfl
@[simp] theorem State.raiseError_cmd (op : Operation) (e : FceError) (k : Option CaptureStep) : (s.raiseError op e k).cmd = s.cmd := by cases op <;> rfl
@[simp] theorem State.raiseError_status (op : Operation) (e : FceError) (k : Option CaptureStep) : (s.raiseError op e k).status = s.status.failed op e k := by cases op <;> rfl
@[simp] theorem State.raiseError_plen (op : Operation) (e : FceError) (k : Option CaptureStep) : (s.raiseError op e k).plen = s.plen := by cases op <;> rfl
@[simp] theorem State.raiseError_txlen (op : Operation) (e : FceError) (k : Option CaptureStep) : (s.raiseError op e k).txlen = s.txlen := by cases op <;> rfl
@[simp] theorem State.raiseError_rxlen (op : Operation) (e : FceError) (k : Option CaptureStep) : (s.raiseError op e k).rxlen = s.rxlen := by cases op <;> rfl
@[simp] theorem State.raiseError_mem (op : Operation) (e : FceError) (k : Option CaptureStep) : (s.raiseError op e k).mem = s.mem := by cases op <;> rfl
@[simp] theorem State.raiseError_host (op : Operation) (e : FceError) (k : Option CaptureStep) : (s.raiseError op e k).host = s.host := by cases op <;> rfl
@[simp] theorem State.raiseError_sendAnswers (op : Operation) (e : FceError) (k : Option CaptureStep) : (s.raiseError op e k).sendAnswers = s.sendAnswers := by cases op <;> rfl
@[simp] theorem State.raiseError_recvAnswers (op : Operation) (e : FceError) (k : Option CaptureStep) : (s.raiseError op e k).recvAnswers = s.recvAnswers := by cases op <;> rfl
@[simp] theorem State.raiseError_trace (op : Operation) (e : FceError) (k : Option CaptureStep) : (s.raiseError op e k).trace = s.trace := by cases op <;> rfl
@[simp] theorem State.raiseError_observed (op : Operation) (e : FceError) (k : Option CaptureStep) : (s.raiseError op e k).observed = s.observed := by cases op <;> rfl
@[simp] theorem State.raiseError_freeIdx (op : Operation) (e : FceError) (k : Option CaptureStep) : (s.raiseError op e k).freeIdx = s.freeIdx := by cases op <;> rfl

/-! `State.completeOp` -/

@[simp] theorem State.completeOp_lenient : (s.completeOp).lenient = s.lenient := rfl
@[simp] theorem State.completeOp_timeout : (s.completeOp).timeout = s.timeout := rfl
@[simp] theorem State.completeOp_cmd : (s.completeOp).cmd = s.cmd := rfl
@[simp] theorem State.completeOp_status : (s.completeOp).status = s.status.completed := rfl
@[simp] theorem State.completeOp_sstate : (s.completeOp).sstate = s.sstate := rfl
@[simp] theorem State.completeOp_phase : (s.completeOp).phase = s.phase := rfl
@[simp] theorem State.completeOp_plen : (s.completeOp).plen = s.plen := rfl
@[simp] theorem State.completeOp_txlen : (s.completeOp).txlen = s.txlen := rfl
@[simp] theorem State.completeOp_rxlen : (s.completeOp).rxlen = s.rxlen := rfl
@[simp] theorem State.completeOp_mem : (s.completeOp).mem = s.mem := rfl
@[simp] theorem State.completeOp_host : (s.completeOp).host = s.host := rfl
@[simp] theorem State.completeOp_sendAnswers : (s.completeOp).sendAnswers = s.sendAnswers := rfl
@[simp] theorem State.completeOp_recvAnswers : (s.completeOp).recvAnswers = s.recvAnswers := rfl
@[simp] theorem State.completeOp_trace : (s.completeOp).trace = s.trace := rfl
@[simp] theorem State.completeOp_observed : (s.completeOp).observed = s.observed := rfl
@[simp] theorem State.completeOp_freeIdx : (s.completeOp).freeIdx = s.freeIdx := rfl

/-! `State.completeCapture` -/

@[simp] theorem State.completeCapture_lenient : (s.completeCapture).lenient = s.lenient := rfl
@[simp] theorem State.completeCapture_timeout : (s.completeCapture).timeout = s.timeout := rfl
@[simp] theorem State.completeCapture_cmd : (s.completeCapture).cmd = s.cmd := rfl
@[simp] theorem State.completeCapture_status : (s.completeCapture).status = s.status.completed := rfl
@[simp] theorem State.completeCapture_sstate : (s.completeCapture).sstate = .complete := rfl
@[simp] theorem State.completeCapture_phase : (s.completeCapture).phase = .send := rfl
@[simp] theorem State.completeCapture_plen : (s.completeCapture).plen = s.plen := rfl
@[simp] theorem State.completeCapture_txlen : (s.completeCapture).txlen = s.txlen := rfl
@[simp] theorem State.completeCapture_rxlen : (s.completeCapture).rxlen = s.rxlen := rfl
@[simp] theorem State.completeCapture_mem : (s.completeCapture).mem = s.mem := rfl
@[simp] theorem State.completeCapture_host : (s.completeCapture).host = s.host := rfl
@[simp] theorem State.completeCapture_sendAnswers : (s.completeCapture).sendAnswers = s.sendAnswers := rfl
@[simp] theorem State.completeCapture_recvAnswers : (s.completeCapture).recvAnswers = s.recvAnswers := rfl
@[simp] theorem State.completeCapture_trace : (s.completeCapture).trace = s.trace := rfl
@[simp] theorem State.completeCapture_observed : (s.completeCapture).observed = s.observed := rfl
@[simp] theorem State.completeCapture_freeIdx : (s.completeCapture).freeIdx = s.freeIdx := rfl

/-! `State.record` -/

@[simp] theorem State.record_lenient (c : Call) : (s.record c).lenient = s.lenient := rfl
@[simp] theorem State.record_timeout (c : Call) : (s.record c).timeout = s.timeout := rfl
@[simp] theorem State.record_cmd (c : Call) : (s.record c).cmd = s.cmd := rfl
@[simp] theorem State.record_status (c : Call) : (s.record c).status = s.status := rfl
@[simp] theorem State.record_sstate (c : Call) : (s.record c).sstate = s.sstate := rfl
@[simp] theorem State.record_phase (c : Call) : (s.record c).phase = s.phase := rfl
@[simp] theorem State.record_plen (c : Call) : (s.record c).plen = s.plen := rfl
@[simp] theorem State.record_txlen (c : Call) : (s.record c).txlen = s.txlen := rfl
@[simp] theorem State.record_rxlen (c : Call) : (s.record c).rxlen = s.rxlen := rfl
@[simp] theorem State.record_mem (c : Call) : (s.record c).mem = s.mem := rfl
@[simp] theorem State.record_host (c : Call) : (s.record c).host = s.host := rfl
@[simp] theorem State.record_sendAnswers (c : Call) : (s.record c).sendAnswers = s.sendAnswers := rfl
@[simp] theorem State.record_recvAnswers (c : Call) : (s.record c).recvAnswers = s.recvAnswers := rfl
@[simp] theorem State.record_trace (c : Call) : (s.record c).trace = s.trace ++ [c] := rfl
@[simp] theorem State.record_observed (c : Call) : (s.record c).observed = s.observed := rfl
@[simp] theorem State.record_freeIdx (c : Call) : (s.record c).freeIdx = s.freeIdx := rfl

/-! `State.tick` -/

@[simp] theorem State.tick_lenient : (s.tick).lenient = s.lenient := rfl
@[simp] theorem State.tick_timeout : (s.tick).timeout = s.timeout := rfl
@[simp] theorem State.tick_cmd : (s.tick).cmd = s.cmd := rfl
@[simp] theorem State.tick_status : (s.tick).status = s.status := rfl
@[simp] theorem State.tick_sstate : (s.tick).sstate = s.sstate := rfl
@[simp] theorem State.tick_phase : (s.tick).phase = s.phase := rfl
@[simp] theorem State.tick_plen : (s.tick).plen = s.plen := rfl
@[simp] theorem State.tick_txlen : (s.tick).txlen = s.txlen := rfl
@[simp] theorem State.tick_rxlen : (s.tick).rxlen = s.rxlen := rfl
@[simp] theorem State.tick_mem : (s.tick).mem = s.mem := rfl
@[simp] theorem State.tick_host : (s.tick).host = s.host := rfl
@[simp] theorem State.tick_sendAnswers : (s.tick).sendAnswers = s.sendAnswers := rfl
@[simp] theorem State.tick_recvAnswers : (s.tick).recvAnswers = s.recvAnswers := rfl
@[simp] theorem State.tick_trace : (s.tick).trace = s.trace := rfl
@[simp] theorem State.tick_observed : (s.tick).observed = s.observed := rfl
@[simp] theorem State.tick_freeIdx : (s.tick).freeIdx = s.freeIdx + 1 := rfl

/-! `State.afterEvent` -/

@[simp] theorem State.afterEvent_lenient (rest : List HostEvent) : (s.afterEvent rest).lenient = s.lenient := rfl
@[simp] theorem State.afterEvent_timeout (rest : List HostEvent) : (s.afterEvent rest).timeout = s.timeout := rfl
@[simp] theorem State.afterEvent_cmd (rest : List HostEvent) : (s.afterEvent rest).cmd = s.cmd := rfl
@[simp] theorem State.afterEvent_status (rest : List HostEvent) : (s.afterEvent rest).status = s.status := rfl
@[simp] theorem State.afterEvent_sstate (rest : List HostEvent) : (s.afterEvent rest).sstate = s.sstate := rfl
@[simp] theorem State.afterEvent_phase (rest : List HostEvent) : (s.afterEvent rest).phase = s.phase := rfl
@[simp] theorem State.afterEvent_plen (rest : List HostEvent) : (s.afterEvent rest).plen = s.plen := rfl
@[simp] theorem State.afterEvent_txlen (rest : List HostEvent) : (s.afterEvent rest).txlen = s.txlen := rfl
@[simp] theorem State.afterEvent_rxlen (rest : List HostEvent) : (s.afterEvent rest).rxlen = s.rxlen := rfl
@[simp] theorem State.afterEvent_mem (rest : List HostEvent) : (s.afterEvent rest).mem = s.mem := rfl
@[simp] theorem State.afterEvent_host (rest : List HostEvent) : (s.afterEvent rest).host = rest := rfl
@[simp] theorem State.afterEvent_sendAnswers (rest : List HostEvent) : (s.afterEvent rest).sendAnswers = s.sendAnswers := rfl
@[simp] theorem State.afterEvent_recvAnswers (rest : List HostEvent) : (s.afterEvent rest).recvAnswers = s.recvAnswers := rfl
@[simp] theorem State.afterEvent_trace (rest : List HostEvent) : (s.afterEvent rest).trace = s.trace := rfl
@[simp] theorem State.afterEvent_observed (rest : List HostEvent) : (s.afterEvent rest).observed = s.observed := rfl
@[simp] theorem State.afterEvent_freeIdx (rest : List HostEvent) : (s.afterEvent rest).freeIdx = s.freeIdx + 1 := rfl

/-! `State.presentPayload` -/

@[simp] theorem State.presentPayload_lenient (p : List Byte) : (s.presentPayload p).lenient = s.lenient := rfl
@[simp] theorem State.presentPayload_timeout (p : List Byte) : (s.presentPayload p).timeout = s.timeout := rfl
@[simp] theorem State.presentPayload_cmd (p : List Byte) : (s.presentPayload p).cmd = s.cmd := rfl
@[simp] theorem State.presentPayload_status (p : List Byte) : (s.presentPayload p).status = s.status := rfl
@[simp] theorem State.presentPayload_sstate (p : List Byte) : (s.presentPayload p).sstate = s.sstate := rfl
@[simp] theorem State.presentPayload_phase (p : List Byte) : (s.presentPayload p).phase = s.phase := rfl
@[simp] theorem State.presentPayload_plen (p : List Byte) : (s.presentPayload p).plen = saturate9 p.length := rfl
@[simp] theorem State.presentPayload_txlen (p : List Byte) : (s.presentPayload p).txlen = s.txlen := rfl
@[simp] theorem State.presentPayload_rxlen (p : List Byte) : (s.presentPayload p).rxlen = s.rxlen := rfl
@[simp] theorem State.presentPayload_mem (p : List Byte) : (s.presentPayload p).mem = s.mem.write .pbuf 0 (p.take Space.pbuf.size) := rfl
@[simp] theorem State.presentPayload_host (p : List Byte) : (s.presentPayload p).host = s.host := rfl
@[simp] theorem State.presentPayload_sendAnswers (p : List Byte) : (s.presentPayload p).sendAnswers = s.sendAnswers := rfl
@[simp] theorem State.presentPayload_recvAnswers (p : List Byte) : (s.presentPayload p).recvAnswers = s.recvAnswers := rfl
@[simp] theorem State.presentPayload_trace (p : List Byte) : (s.presentPayload p).trace = s.trace := rfl
@[simp] theorem State.presentPayload_observed (p : List Byte) : (s.presentPayload p).observed = s.observed := rfl
@[simp] theorem State.presentPayload_freeIdx (p : List Byte) : (s.presentPayload p).freeIdx = s.freeIdx := rfl

/-! `State.writeFrame` -/

@[simp] theorem State.writeFrame_lenient (p : List Byte) : (s.writeFrame p).lenient = s.lenient := rfl
@[simp] theorem State.writeFrame_timeout (p : List Byte) : (s.writeFrame p).timeout = s.timeout := rfl
@[simp] theorem State.writeFrame_cmd (p : List Byte) : (s.writeFrame p).cmd = s.cmd := rfl
@[simp] theorem State.writeFrame_status (p : List Byte) : (s.writeFrame p).status = { s.status with txValid := true } := rfl
@[simp] theorem State.writeFrame_sstate (p : List Byte) : (s.writeFrame p).sstate = s.sstate := rfl
@[simp] theorem State.writeFrame_phase (p : List Byte) : (s.writeFrame p).phase = s.phase := rfl
@[simp] theorem State.writeFrame_plen (p : List Byte) : (s.writeFrame p).plen = s.plen := rfl
@[simp] theorem State.writeFrame_txlen (p : List Byte) : (s.writeFrame p).txlen = BitVec.ofNat 9 (p.length + Config.frameOverhead) := rfl
@[simp] theorem State.writeFrame_rxlen (p : List Byte) : (s.writeFrame p).rxlen = s.rxlen := rfl
@[simp] theorem State.writeFrame_mem (p : List Byte) : (s.writeFrame p).mem = s.mem.write .txbuf 0 (frameOf p) := rfl
@[simp] theorem State.writeFrame_host (p : List Byte) : (s.writeFrame p).host = s.host := rfl
@[simp] theorem State.writeFrame_sendAnswers (p : List Byte) : (s.writeFrame p).sendAnswers = s.sendAnswers := rfl
@[simp] theorem State.writeFrame_recvAnswers (p : List Byte) : (s.writeFrame p).recvAnswers = s.recvAnswers := rfl
@[simp] theorem State.writeFrame_trace (p : List Byte) : (s.writeFrame p).trace = s.trace := rfl
@[simp] theorem State.writeFrame_observed (p : List Byte) : (s.writeFrame p).observed = s.observed := rfl
@[simp] theorem State.writeFrame_freeIdx (p : List Byte) : (s.writeFrame p).freeIdx = s.freeIdx := rfl

/-! `State.storeResponse` -/

@[simp] theorem State.storeResponse_lenient (r : List Byte) : (s.storeResponse r).lenient = s.lenient := rfl
@[simp] theorem State.storeResponse_timeout (r : List Byte) : (s.storeResponse r).timeout = s.timeout := rfl
@[simp] theorem State.storeResponse_cmd (r : List Byte) : (s.storeResponse r).cmd = s.cmd := rfl
@[simp] theorem State.storeResponse_status (r : List Byte) : (s.storeResponse r).status = s.status := rfl
@[simp] theorem State.storeResponse_sstate (r : List Byte) : (s.storeResponse r).sstate = s.sstate := rfl
@[simp] theorem State.storeResponse_phase (r : List Byte) : (s.storeResponse r).phase = s.phase := rfl
@[simp] theorem State.storeResponse_plen (r : List Byte) : (s.storeResponse r).plen = s.plen := rfl
@[simp] theorem State.storeResponse_txlen (r : List Byte) : (s.storeResponse r).txlen = s.txlen := rfl
@[simp] theorem State.storeResponse_rxlen (r : List Byte) : (s.storeResponse r).rxlen = saturate14 r.length := rfl
@[simp] theorem State.storeResponse_mem (r : List Byte) : (s.storeResponse r).mem = s.mem.write .rxbuf 0 (r.take Space.rxbuf.size) := rfl
@[simp] theorem State.storeResponse_host (r : List Byte) : (s.storeResponse r).host = s.host := rfl
@[simp] theorem State.storeResponse_sendAnswers (r : List Byte) : (s.storeResponse r).sendAnswers = s.sendAnswers := rfl
@[simp] theorem State.storeResponse_recvAnswers (r : List Byte) : (s.storeResponse r).recvAnswers = s.recvAnswers := rfl
@[simp] theorem State.storeResponse_trace (r : List Byte) : (s.storeResponse r).trace = s.trace := rfl
@[simp] theorem State.storeResponse_observed (r : List Byte) : (s.storeResponse r).observed = s.observed := rfl
@[simp] theorem State.storeResponse_freeIdx (r : List Byte) : (s.storeResponse r).freeIdx = s.freeIdx := rfl

/-! `State.writeRaster` -/

@[simp] theorem State.writeRaster_lenient (out : List Byte) : (s.writeRaster out).lenient = s.lenient := rfl
@[simp] theorem State.writeRaster_timeout (out : List Byte) : (s.writeRaster out).timeout = s.timeout := rfl
@[simp] theorem State.writeRaster_cmd (out : List Byte) : (s.writeRaster out).cmd = s.cmd := rfl
@[simp] theorem State.writeRaster_status (out : List Byte) : (s.writeRaster out).status = { s.status with imgValid := true } := rfl
@[simp] theorem State.writeRaster_sstate (out : List Byte) : (s.writeRaster out).sstate = s.sstate := rfl
@[simp] theorem State.writeRaster_phase (out : List Byte) : (s.writeRaster out).phase = s.phase := rfl
@[simp] theorem State.writeRaster_plen (out : List Byte) : (s.writeRaster out).plen = s.plen := rfl
@[simp] theorem State.writeRaster_txlen (out : List Byte) : (s.writeRaster out).txlen = s.txlen := rfl
@[simp] theorem State.writeRaster_rxlen (out : List Byte) : (s.writeRaster out).rxlen = s.rxlen := rfl
@[simp] theorem State.writeRaster_mem (out : List Byte) : (s.writeRaster out).mem = s.mem.write .imgbuf 0 out := rfl
@[simp] theorem State.writeRaster_host (out : List Byte) : (s.writeRaster out).host = s.host := rfl
@[simp] theorem State.writeRaster_sendAnswers (out : List Byte) : (s.writeRaster out).sendAnswers = s.sendAnswers := rfl
@[simp] theorem State.writeRaster_recvAnswers (out : List Byte) : (s.writeRaster out).recvAnswers = s.recvAnswers := rfl
@[simp] theorem State.writeRaster_trace (out : List Byte) : (s.writeRaster out).trace = s.trace := rfl
@[simp] theorem State.writeRaster_observed (out : List Byte) : (s.writeRaster out).observed = s.observed := rfl
@[simp] theorem State.writeRaster_freeIdx (out : List Byte) : (s.writeRaster out).freeIdx = s.freeIdx := rfl

/-! `State.startSession` -/

@[simp] theorem State.startSession_lenient : (s.startSession).lenient = s.lenient := rfl
@[simp] theorem State.startSession_timeout : (s.startSession).timeout = s.timeout := rfl
@[simp] theorem State.startSession_cmd : (s.startSession).cmd = Operation.capture.code := rfl
@[simp] theorem State.startSession_status : (s.startSession).status = s.status.capturing := rfl
@[simp] theorem State.startSession_sstate : (s.startSession).sstate = .idle := rfl
@[simp] theorem State.startSession_phase : (s.startSession).phase = .send := rfl
@[simp] theorem State.startSession_plen : (s.startSession).plen = s.plen := rfl
@[simp] theorem State.startSession_txlen : (s.startSession).txlen = s.txlen := rfl
@[simp] theorem State.startSession_rxlen : (s.startSession).rxlen = s.rxlen := rfl
@[simp] theorem State.startSession_mem : (s.startSession).mem = s.mem := rfl
@[simp] theorem State.startSession_host : (s.startSession).host = s.host := rfl
@[simp] theorem State.startSession_sendAnswers : (s.startSession).sendAnswers = s.sendAnswers := rfl
@[simp] theorem State.startSession_recvAnswers : (s.startSession).recvAnswers = s.recvAnswers := rfl
@[simp] theorem State.startSession_trace : (s.startSession).trace = [] := rfl
@[simp] theorem State.startSession_observed : (s.startSession).observed = s.observed := rfl
@[simp] theorem State.startSession_freeIdx : (s.startSession).freeIdx = s.freeIdx := rfl

/-! `State.callRecv` -/

@[simp] theorem State.callRecv_lenient (k : CaptureStep) : (s.callRecv k).lenient = s.lenient := rfl
@[simp] theorem State.callRecv_timeout (k : CaptureStep) : (s.callRecv k).timeout = s.timeout := rfl
@[simp] theorem State.callRecv_cmd (k : CaptureStep) : (s.callRecv k).cmd = s.cmd := rfl
@[simp] theorem State.callRecv_status (k : CaptureStep) : (s.callRecv k).status = s.status := rfl
@[simp] theorem State.callRecv_sstate (k : CaptureStep) : (s.callRecv k).sstate = s.sstate := rfl
@[simp] theorem State.callRecv_phase (k : CaptureStep) : (s.callRecv k).phase = s.phase := rfl
@[simp] theorem State.callRecv_plen (k : CaptureStep) : (s.callRecv k).plen = s.plen := rfl
@[simp] theorem State.callRecv_txlen (k : CaptureStep) : (s.callRecv k).txlen = s.txlen := rfl
@[simp] theorem State.callRecv_rxlen (k : CaptureStep) : (s.callRecv k).rxlen = s.rxlen := rfl
@[simp] theorem State.callRecv_mem (k : CaptureStep) : (s.callRecv k).mem = s.mem := rfl
@[simp] theorem State.callRecv_host (k : CaptureStep) : (s.callRecv k).host = s.host := rfl
@[simp] theorem State.callRecv_sendAnswers (k : CaptureStep) : (s.callRecv k).sendAnswers = s.sendAnswers := rfl
@[simp] theorem State.callRecv_recvAnswers (k : CaptureStep) : (s.callRecv k).recvAnswers = s.recvAnswers := rfl
@[simp] theorem State.callRecv_trace (k : CaptureStep) : (s.callRecv k).trace = s.trace ++ [.recv (expectedLen k) s.timeout] := rfl
@[simp] theorem State.callRecv_observed (k : CaptureStep) : (s.callRecv k).observed = s.observed := rfl
@[simp] theorem State.callRecv_freeIdx (k : CaptureStep) : (s.callRecv k).freeIdx = s.freeIdx := rfl

/-! `State.sent` -/

@[simp] theorem State.sent_lenient (k : CaptureStep) : (s.sent k).lenient = s.lenient := by cases k <;> rfl
@[simp] theorem State.sent_timeout (k : CaptureStep) : (s.sent k).timeout = s.timeout := by cases k <;> rfl
@[simp] theorem State.sent_cmd (k : CaptureStep) : (s.sent k).cmd = s.cmd := by cases k <;> rfl
@[simp] theorem State.sent_status (k : CaptureStep) : (s.sent k).status = s.status := by cases k <;> rfl
@[simp] theorem State.sent_phase (k : CaptureStep) : (s.sent k).phase = .recv := by cases k <;> rfl
@[simp] theorem State.sent_plen (k : CaptureStep) : (s.sent k).plen = s.plen := by cases k <;> rfl
@[simp] theorem State.sent_txlen (k : CaptureStep) : (s.sent k).txlen = s.txlen := by cases k <;> rfl
@[simp] theorem State.sent_rxlen (k : CaptureStep) : (s.sent k).rxlen = s.rxlen := by cases k <;> rfl
@[simp] theorem State.sent_mem (k : CaptureStep) : (s.sent k).mem = s.mem := by cases k <;> rfl
@[simp] theorem State.sent_host (k : CaptureStep) : (s.sent k).host = s.host := by cases k <;> rfl
@[simp] theorem State.sent_sendAnswers (k : CaptureStep) : (s.sent k).sendAnswers = s.sendAnswers := by cases k <;> rfl
@[simp] theorem State.sent_recvAnswers (k : CaptureStep) : (s.sent k).recvAnswers = s.recvAnswers := by cases k <;> rfl
@[simp] theorem State.sent_trace (k : CaptureStep) : (s.sent k).trace = s.trace := by cases k <;> rfl
@[simp] theorem State.sent_observed (k : CaptureStep) : (s.sent k).observed = s.observed := by cases k <;> rfl
@[simp] theorem State.sent_freeIdx (k : CaptureStep) : (s.sent k).freeIdx = s.freeIdx := by cases k <;> rfl

/-! `State.observe` -/

@[simp] theorem State.observe_lenient (o : Observation) : (s.observe o).lenient = s.lenient := rfl
@[simp] theorem State.observe_timeout (o : Observation) : (s.observe o).timeout = s.timeout := rfl
@[simp] theorem State.observe_cmd (o : Observation) : (s.observe o).cmd = s.cmd := rfl
@[simp] theorem State.observe_status (o : Observation) : (s.observe o).status = s.status := rfl
@[simp] theorem State.observe_sstate (o : Observation) : (s.observe o).sstate = s.sstate := rfl
@[simp] theorem State.observe_phase (o : Observation) : (s.observe o).phase = s.phase := rfl
@[simp] theorem State.observe_plen (o : Observation) : (s.observe o).plen = s.plen := rfl
@[simp] theorem State.observe_txlen (o : Observation) : (s.observe o).txlen = s.txlen := rfl
@[simp] theorem State.observe_rxlen (o : Observation) : (s.observe o).rxlen = s.rxlen := rfl
@[simp] theorem State.observe_mem (o : Observation) : (s.observe o).mem = s.mem := rfl
@[simp] theorem State.observe_host (o : Observation) : (s.observe o).host = s.host := rfl
@[simp] theorem State.observe_sendAnswers (o : Observation) : (s.observe o).sendAnswers = s.sendAnswers := rfl
@[simp] theorem State.observe_recvAnswers (o : Observation) : (s.observe o).recvAnswers = s.recvAnswers := rfl
@[simp] theorem State.observe_trace (o : Observation) : (s.observe o).trace = s.trace := rfl
@[simp] theorem State.observe_observed (o : Observation) : (s.observe o).observed = some o := rfl
@[simp] theorem State.observe_freeIdx (o : Observation) : (s.observe o).freeIdx = s.freeIdx := rfl

/-! `State.takeSend` -/

@[simp] theorem State.takeSend_lenient (rest : List SendOutcome) : (s.takeSend rest).lenient = s.lenient := rfl
@[simp] theorem State.takeSend_timeout (rest : List SendOutcome) : (s.takeSend rest).timeout = s.timeout := rfl
@[simp] theorem State.takeSend_cmd (rest : List SendOutcome) : (s.takeSend rest).cmd = s.cmd := rfl
@[simp] theorem State.takeSend_status (rest : List SendOutcome) : (s.takeSend rest).status = s.status := rfl
@[simp] theorem State.takeSend_sstate (rest : List SendOutcome) : (s.takeSend rest).sstate = s.sstate := rfl
@[simp] theorem State.takeSend_phase (rest : List SendOutcome) : (s.takeSend rest).phase = s.phase := rfl
@[simp] theorem State.takeSend_plen (rest : List SendOutcome) : (s.takeSend rest).plen = s.plen := rfl
@[simp] theorem State.takeSend_txlen (rest : List SendOutcome) : (s.takeSend rest).txlen = s.txlen := rfl
@[simp] theorem State.takeSend_rxlen (rest : List SendOutcome) : (s.takeSend rest).rxlen = s.rxlen := rfl
@[simp] theorem State.takeSend_mem (rest : List SendOutcome) : (s.takeSend rest).mem = s.mem := rfl
@[simp] theorem State.takeSend_host (rest : List SendOutcome) : (s.takeSend rest).host = s.host := rfl
@[simp] theorem State.takeSend_sendAnswers (rest : List SendOutcome) : (s.takeSend rest).sendAnswers = rest := rfl
@[simp] theorem State.takeSend_recvAnswers (rest : List SendOutcome) : (s.takeSend rest).recvAnswers = s.recvAnswers := rfl
@[simp] theorem State.takeSend_trace (rest : List SendOutcome) : (s.takeSend rest).trace = s.trace := rfl
@[simp] theorem State.takeSend_observed (rest : List SendOutcome) : (s.takeSend rest).observed = s.observed := rfl
@[simp] theorem State.takeSend_freeIdx (rest : List SendOutcome) : (s.takeSend rest).freeIdx = s.freeIdx := rfl

/-! `State.takeRecv` -/

@[simp] theorem State.takeRecv_lenient (rest : List RecvOutcome) : (s.takeRecv rest).lenient = s.lenient := rfl
@[simp] theorem State.takeRecv_timeout (rest : List RecvOutcome) : (s.takeRecv rest).timeout = s.timeout := rfl
@[simp] theorem State.takeRecv_cmd (rest : List RecvOutcome) : (s.takeRecv rest).cmd = s.cmd := rfl
@[simp] theorem State.takeRecv_status (rest : List RecvOutcome) : (s.takeRecv rest).status = s.status := rfl
@[simp] theorem State.takeRecv_sstate (rest : List RecvOutcome) : (s.takeRecv rest).sstate = s.sstate := rfl
@[simp] theorem State.takeRecv_phase (rest : List RecvOutcome) : (s.takeRecv rest).phase = s.phase := rfl
@[simp] theorem State.takeRecv_plen (rest : List RecvOutcome) : (s.takeRecv rest).plen = s.plen := rfl
@[simp] theorem State.takeRecv_txlen (rest : List RecvOutcome) : (s.takeRecv rest).txlen = s.txlen := rfl
@[simp] theorem State.takeRecv_rxlen (rest : List RecvOutcome) : (s.takeRecv rest).rxlen = s.rxlen := rfl
@[simp] theorem State.takeRecv_mem (rest : List RecvOutcome) : (s.takeRecv rest).mem = s.mem := rfl
@[simp] theorem State.takeRecv_host (rest : List RecvOutcome) : (s.takeRecv rest).host = s.host := rfl
@[simp] theorem State.takeRecv_sendAnswers (rest : List RecvOutcome) : (s.takeRecv rest).sendAnswers = s.sendAnswers := rfl
@[simp] theorem State.takeRecv_recvAnswers (rest : List RecvOutcome) : (s.takeRecv rest).recvAnswers = rest := rfl
@[simp] theorem State.takeRecv_trace (rest : List RecvOutcome) : (s.takeRecv rest).trace = s.trace := rfl
@[simp] theorem State.takeRecv_observed (rest : List RecvOutcome) : (s.takeRecv rest).observed = s.observed := rfl
@[simp] theorem State.takeRecv_freeIdx (rest : List RecvOutcome) : (s.takeRecv rest).freeIdx = s.freeIdx := rfl

/-! `State.advance` -/

@[simp] theorem State.advance_lenient (k : CaptureStep) : (s.advance k).lenient = s.lenient := rfl
@[simp] theorem State.advance_timeout (k : CaptureStep) : (s.advance k).timeout = s.timeout := rfl
@[simp] theorem State.advance_cmd (k : CaptureStep) : (s.advance k).cmd = s.cmd := rfl
@[simp] theorem State.advance_status (k : CaptureStep) : (s.advance k).status = s.status := rfl
@[simp] theorem State.advance_sstate (k : CaptureStep) : (s.advance k).sstate = nextState k := rfl
@[simp] theorem State.advance_phase (k : CaptureStep) : (s.advance k).phase = .send := rfl
@[simp] theorem State.advance_plen (k : CaptureStep) : (s.advance k).plen = s.plen := rfl
@[simp] theorem State.advance_txlen (k : CaptureStep) : (s.advance k).txlen = s.txlen := rfl
@[simp] theorem State.advance_rxlen (k : CaptureStep) : (s.advance k).rxlen = s.rxlen := rfl
@[simp] theorem State.advance_mem (k : CaptureStep) : (s.advance k).mem = s.mem := rfl
@[simp] theorem State.advance_host (k : CaptureStep) : (s.advance k).host = s.host := rfl
@[simp] theorem State.advance_sendAnswers (k : CaptureStep) : (s.advance k).sendAnswers = s.sendAnswers := rfl
@[simp] theorem State.advance_recvAnswers (k : CaptureStep) : (s.advance k).recvAnswers = s.recvAnswers := rfl
@[simp] theorem State.advance_trace (k : CaptureStep) : (s.advance k).trace = s.trace := rfl
@[simp] theorem State.advance_observed (k : CaptureStep) : (s.advance k).observed = s.observed := rfl
@[simp] theorem State.advance_freeIdx (k : CaptureStep) : (s.advance k).freeIdx = s.freeIdx := rfl

/-! `State.callSend` -/

@[simp] theorem State.callSend_lenient (k : CaptureStep) : (s.callSend k).lenient = s.lenient := rfl
@[simp] theorem State.callSend_timeout (k : CaptureStep) : (s.callSend k).timeout = s.timeout := rfl
@[simp] theorem State.callSend_cmd (k : CaptureStep) : (s.callSend k).cmd = s.cmd := rfl
@[simp] theorem State.callSend_status (k : CaptureStep) : (s.callSend k).status = { s.status with txValid := true } := rfl
@[simp] theorem State.callSend_sstate (k : CaptureStep) : (s.callSend k).sstate = s.sstate := rfl
@[simp] theorem State.callSend_phase (k : CaptureStep) : (s.callSend k).phase = s.phase := rfl
@[simp] theorem State.callSend_rxlen (k : CaptureStep) : (s.callSend k).rxlen = s.rxlen := rfl
@[simp] theorem State.callSend_host (k : CaptureStep) : (s.callSend k).host = s.host := rfl
@[simp] theorem State.callSend_sendAnswers (k : CaptureStep) : (s.callSend k).sendAnswers = s.sendAnswers := rfl
@[simp] theorem State.callSend_recvAnswers (k : CaptureStep) : (s.callSend k).recvAnswers = s.recvAnswers := rfl
@[simp] theorem State.callSend_observed (k : CaptureStep) : (s.callSend k).observed = s.observed := rfl
@[simp] theorem State.callSend_freeIdx (k : CaptureStep) : (s.callSend k).freeIdx = s.freeIdx := rfl

/-! `State.failStep` -/

@[simp] theorem State.failStep_lenient (e : FceError) (k : CaptureStep) : (s.failStep e k).lenient = s.lenient := rfl
@[simp] theorem State.failStep_timeout (e : FceError) (k : CaptureStep) : (s.failStep e k).timeout = s.timeout := rfl
@[simp] theorem State.failStep_cmd (e : FceError) (k : CaptureStep) : (s.failStep e k).cmd = s.cmd := rfl
@[simp] theorem State.failStep_status (e : FceError) (k : CaptureStep) : (s.failStep e k).status = s.status.failed .capture e (some k) := rfl
@[simp] theorem State.failStep_sstate (e : FceError) (k : CaptureStep) : (s.failStep e k).sstate = .failed := rfl
@[simp] theorem State.failStep_phase (e : FceError) (k : CaptureStep) : (s.failStep e k).phase = .send := rfl
@[simp] theorem State.failStep_plen (e : FceError) (k : CaptureStep) : (s.failStep e k).plen = s.plen := rfl
@[simp] theorem State.failStep_txlen (e : FceError) (k : CaptureStep) : (s.failStep e k).txlen = s.txlen := rfl
@[simp] theorem State.failStep_rxlen (e : FceError) (k : CaptureStep) : (s.failStep e k).rxlen = s.rxlen := rfl
@[simp] theorem State.failStep_mem (e : FceError) (k : CaptureStep) : (s.failStep e k).mem = s.mem := rfl
@[simp] theorem State.failStep_host (e : FceError) (k : CaptureStep) : (s.failStep e k).host = s.host := rfl
@[simp] theorem State.failStep_sendAnswers (e : FceError) (k : CaptureStep) : (s.failStep e k).sendAnswers = s.sendAnswers := rfl
@[simp] theorem State.failStep_recvAnswers (e : FceError) (k : CaptureStep) : (s.failStep e k).recvAnswers = s.recvAnswers := rfl
@[simp] theorem State.failStep_trace (e : FceError) (k : CaptureStep) : (s.failStep e k).trace = s.trace := rfl
@[simp] theorem State.failStep_observed (e : FceError) (k : CaptureStep) : (s.failStep e k).observed = s.observed := rfl
@[simp] theorem State.failStep_freeIdx (e : FceError) (k : CaptureStep) : (s.failStep e k).freeIdx = s.freeIdx := rfl

/-! `State.recvFailed` -/

@[simp] theorem State.recvFailed_lenient (e : FceError) (k : CaptureStep) : (s.recvFailed e k).lenient = s.lenient := rfl
@[simp] theorem State.recvFailed_timeout (e : FceError) (k : CaptureStep) : (s.recvFailed e k).timeout = s.timeout := rfl
@[simp] theorem State.recvFailed_cmd (e : FceError) (k : CaptureStep) : (s.recvFailed e k).cmd = s.cmd := rfl
@[simp] theorem State.recvFailed_status (e : FceError) (k : CaptureStep) : (s.recvFailed e k).status = s.status.failed .capture e (some k) := rfl
@[simp] theorem State.recvFailed_sstate (e : FceError) (k : CaptureStep) : (s.recvFailed e k).sstate = .failed := rfl
@[simp] theorem State.recvFailed_phase (e : FceError) (k : CaptureStep) : (s.recvFailed e k).phase = .send := rfl
@[simp] theorem State.recvFailed_plen (e : FceError) (k : CaptureStep) : (s.recvFailed e k).plen = s.plen := rfl
@[simp] theorem State.recvFailed_txlen (e : FceError) (k : CaptureStep) : (s.recvFailed e k).txlen = s.txlen := rfl
@[simp] theorem State.recvFailed_rxlen (e : FceError) (k : CaptureStep) : (s.recvFailed e k).rxlen = s.rxlen := rfl
@[simp] theorem State.recvFailed_mem (e : FceError) (k : CaptureStep) : (s.recvFailed e k).mem = s.mem := rfl
@[simp] theorem State.recvFailed_host (e : FceError) (k : CaptureStep) : (s.recvFailed e k).host = s.host := rfl
@[simp] theorem State.recvFailed_sendAnswers (e : FceError) (k : CaptureStep) : (s.recvFailed e k).sendAnswers = s.sendAnswers := rfl
@[simp] theorem State.recvFailed_recvAnswers (e : FceError) (k : CaptureStep) : (s.recvFailed e k).recvAnswers = s.recvAnswers := rfl
@[simp] theorem State.recvFailed_trace (e : FceError) (k : CaptureStep) : (s.recvFailed e k).trace = s.trace ++ [.recv (expectedLen k) s.timeout] := rfl
@[simp] theorem State.recvFailed_observed (e : FceError) (k : CaptureStep) : (s.recvFailed e k).observed = s.observed := rfl
@[simp] theorem State.recvFailed_freeIdx (e : FceError) (k : CaptureStep) : (s.recvFailed e k).freeIdx = s.freeIdx := rfl

/-! Fields whose new value depends on the operation or the step -/

@[simp] theorem State.raiseError_capture_sstate (e : FceError) (k : Option CaptureStep) :
    (s.raiseError .capture e k).sstate = .failed := rfl
@[simp] theorem State.raiseError_capture_phase (e : FceError) (k : Option CaptureStep) :
    (s.raiseError .capture e k).phase = .send := rfl
@[simp] theorem State.raiseError_enc (e : FceError) (k : Option CaptureStep) :
    s.raiseError .enc e k = { s with status := s.status.failed .enc e k } := rfl
@[simp] theorem State.raiseError_ack (e : FceError) (k : Option CaptureStep) :
    s.raiseError .ack e k = { s with status := s.status.failed .ack e k } := rfl
@[simp] theorem State.raiseError_img (e : FceError) (k : Option CaptureStep) :
    s.raiseError .img e k = { s with status := s.status.failed .img e k } := rfl
@[simp] theorem State.sent_sstate_four : (s.sent .four).sstate = .imageRequested := rfl
theorem State.sent_sstate_of_ne {k : CaptureStep} (h : k ≠ .four) : (s.sent k).sstate = s.sstate := by
  cases k <;> first | rfl | exact absurd rfl h

/-! `Status` -/

variable (st : Status) (op : Operation) (e : FceError) (k : Option CaptureStep)

@[simp] theorem Status.completed_busy : st.completed.busy = false := rfl
@[simp] theorem Status.completed_result : st.completed.result = .ok := rfl
@[simp] theorem Status.completed_errStep : st.completed.errStep = none := rfl
@[simp] theorem Status.completed_txValid : st.completed.txValid = st.txValid := rfl
@[simp] theorem Status.completed_imgValid : st.completed.imgValid = st.imgValid := rfl
@[simp] theorem Status.failed_busy : (st.failed op e k).busy = false := by cases op <;> rfl
@[simp] theorem Status.failed_result : (st.failed op e k).result = .err e := by cases op <;> rfl
@[simp] theorem Status.failed_errStep : (st.failed op e k).errStep = k := by cases op <;> rfl
@[simp] theorem Status.failed_enc_txValid : (st.failed .enc e k).txValid = false := rfl
@[simp] theorem Status.failed_enc_imgValid : (st.failed .enc e k).imgValid = st.imgValid := rfl
@[simp] theorem Status.failed_ack_txValid : (st.failed .ack e k).txValid = st.txValid := rfl
@[simp] theorem Status.failed_ack_imgValid : (st.failed .ack e k).imgValid = st.imgValid := rfl
@[simp] theorem Status.failed_img_txValid : (st.failed .img e k).txValid = st.txValid := rfl
@[simp] theorem Status.failed_img_imgValid : (st.failed .img e k).imgValid = false := rfl
@[simp] theorem Status.failed_capture_txValid : (st.failed .capture e k).txValid = st.txValid := rfl
@[simp] theorem Status.failed_capture_imgValid : (st.failed .capture e k).imgValid = false := rfl
@[simp] theorem Status.capturing_busy : st.capturing.busy = true := rfl
@[simp] theorem Status.capturing_result : st.capturing.result = st.result := rfl
@[simp] theorem Status.capturing_errStep : st.capturing.errStep = st.errStep := rfl
@[simp] theorem Status.capturing_txValid : st.capturing.txValid = st.txValid := rfl
@[simp] theorem Status.capturing_imgValid : st.capturing.imgValid = false := rfl

end Sys2Proof.Machine
end

