-- ==== Sys2Proof/Laws/Operations.lean ====
section
/-! SUPPORT. What each shared operation can answer, said once: the operands just presented, the three codec operations,
the halves of a capture step. -/

namespace Sys2Proof.Machine

/-! ## Lengths -/

theorem saturate9_toNat (n : Nat) : (saturate9 n).toNat = min n 511 := by
  rw [saturate9, BitVec.toNat_ofNat]; omega

theorem saturate14_toNat (n : Nat) : (saturate14 n).toNat = min n 16383 := by
  rw [saturate14, BitVec.toNat_ofNat]; omega

theorem txlen_toNat {p : List Byte} (h : p.length ≤ 255) :
    (BitVec.ofNat 9 (p.length + Config.frameOverhead)).toNat = p.length + 4 := by
  rw [BitVec.toNat_ofNat]; simp only [Config.frameOverhead]; omega

theorem Space.size_pbuf : Space.pbuf.size = 255 := rfl
theorem Space.size_rxbuf : Space.rxbuf.size = 10246 := rfl

/-! ## Frames of the buffer writes -/

/-- A write at index 0 leaves every byte past it, and the other buffers, alone. -/
theorem Memory.sameBut_write (m : Memory) (sp : Space) {vs : List Byte} {n : Nat} (h : vs.length ≤ n) :
    m.SameBut (m.write sp 0 vs) sp n := by
  intro sq x hx
  by_cases hs : sq = sp
  · subst hs
    rw [Memory.byte?_write_same, if_neg]
    intro hc
    exact hx ⟨rfl, by omega⟩
  · exact Memory.byte?_write_other _ _ _ _ hs

theorem take_pbuf {p : List Byte} (h : p.length ≤ 255) : p.take Space.pbuf.size = p :=
  List.take_of_length_le (by rw [Space.size_pbuf]; exact h)

theorem take_rxbuf {r : List Byte} (h : r.length ≤ 10246) : r.take Space.rxbuf.size = r :=
  List.take_of_length_le (by rw [Space.size_rxbuf]; exact h)

/-! ## ENC -/

theorem payloadLengthOk_iff (s : State) : s.payloadLengthOk = true ↔ 1 ≤ s.plen.toNat ∧ s.plen.toNat ≤ 255 := by
  simp [State.payloadLengthOk]

theorem payloadLengthOk_present (p : List Byte) (s : State) : (s.presentPayload p).payloadLengthOk = payloadOk p := by
  rw [Bool.eq_iff_iff, payloadLengthOk_iff, payloadOk_iff, State.presentPayload_plen, saturate9_toNat]
  omega

theorem payload?_present {p : List Byte} (h : p.length ≤ 255) (s : State) : (s.presentPayload p).payload? = some p := by
  have ht : p.take Space.pbuf.size = p := List.take_of_length_le (by rw [Space.size_pbuf]; exact h)
  have hn : (saturate9 p.length).toNat = p.length := by rw [saturate9_toNat]; omega
  simp only [State.payload?, State.presentPayload_mem, State.presentPayload_plen, ht, hn]
  rw [Memory.read?_write_zero _ _ _ 0 p.length (by omega)]
  simp

/-- What ENC can answer next: the frame of the payload read, or `EncodingError`. -/
theorem encodeOperand_next {s t : State} (h : encodeOperand s = .next t) :
    (s.payloadLengthOk = true ∧ ∃ p, s.payload? = some p ∧ t = ((s.latch .enc).writeFrame p).completeOp) ∨
    (s.payloadLengthOk = false ∧ t = (s.latch .enc).raiseError .enc .encodingError none) := by
  unfold encodeOperand at h
  split at h
  · rename_i hok
    cases hp : s.payload? with
    | none => rw [hp] at h; cases h
    | some p => rw [hp] at h; exact .inl ⟨hok, p, rfl, by cases h; rfl⟩
  · rename_i hok
    exact .inr ⟨by simpa using hok, by cases h; rfl⟩

theorem payload?_length {s : State} {p : List Byte} (h : s.payload? = some p) : p.length = s.plen.toNat :=
  Memory.read?_length h

theorem encodeOperand_ok {s : State} {p : List Byte} (h : s.payloadLengthOk = true) (hp : s.payload? = some p) :
    encodeOperand s = .next ((s.latch .enc).writeFrame p).completeOp := by
  simp only [encodeOperand, h, if_true, hp]

/-- `ENC <payload>` on a payload of a legal length completes. -/
theorem encodePayload_ok {p : List Byte} (h : payloadOk p = true) (s : State) :
    encodePayload p s = .next (((s.presentPayload p).latch .enc).writeFrame p).completeOp :=
  encodeOperand_ok (by rw [payloadLengthOk_present, h]) (payload?_present ((payloadOk_iff p).mp h).2 s)

theorem encodePayload_bad {p : List Byte} (h : payloadOk p = false) (s : State) :
    encodePayload p s = .next (((s.presentPayload p).latch .enc).raiseError .enc .encodingError none) := by
  simp only [encodePayload, encodeOperand, payloadLengthOk_present, h, Bool.false_eq_true, if_false]

/-! ## ACK -/

theorem ackOk_storeResponse (r : List Byte) (s : State) :
    (s.storeResponse r).ackOk = decide (r.length = 7) := by
  simp only [State.ackOk, State.storeResponse_rxlen, saturate14_toNat, Config.ackLen, decide_eq_decide]
  omega

/-- ACK of a response just stored: the verdict of the pure function. -/
theorem validateOperand_storeResponse (r : List Byte) (s : State) :
    validateOperand (s.storeResponse r) =
      if r.length = 7 then .next ((s.storeResponse r).latch .ack).completeOp
      else .next (((s.storeResponse r).latch .ack).raiseError .ack .shortResponse none) := by
  simp only [validateOperand, ackOk_storeResponse, decide_eq_true_eq]

/-! ## IMG -/

theorem length_flatMap_pairs (a b : Nat → Byte) (n : Nat) :
    ((List.range n).flatMap (fun i => [a i, b i])).length = 2 * n := by
  induction n with
  | zero => rfl
  | succ n ih => rw [List.range_succ, List.flatMap_append, List.length_append, ih]; simp; omega

theorem getElem?_flatMap_pairs (a b : Nat → Byte) {n i : Nat} (h : i < n) :
    ((List.range n).flatMap (fun i => [a i, b i]))[2 * i]? = some (a i) ∧
    ((List.range n).flatMap (fun i => [a i, b i]))[2 * i + 1]? = some (b i) := by
  induction n with
  | zero => omega
  | succ n ih =>
    rw [List.range_succ, List.flatMap_append]
    have hl := length_flatMap_pairs a b n
    rcases Nat.lt_or_ge i n with hi | hi
    · rw [List.getElem?_append_left (by omega), List.getElem?_append_left (by omega)]
      exact ih hi
    · obtain rfl : i = n := by omega
      rw [List.getElem?_append_right (by omega), List.getElem?_append_right (by omega), hl]
      have h1 : 2 * i + 1 - 2 * i = 1 := by omega
      simp [h1]

/-- The window of a pixel as a pair: both bytes where both exist, zeros otherwise. -/
theorem windowOrZero_eq (r : List Byte) (off : Nat) :
    windowOrZero r off =
      [if off + 1 < r.length then r.getD off 0#8 else 0#8, if off + 1 < r.length then r.getD (off + 1) 0#8 else 0#8] := by
  unfold windowOrZero
  by_cases h : off + 1 < r.length
  · rw [List.getElem?_eq_getElem (by omega), List.getElem?_eq_getElem h, if_pos h, if_pos h]
    simp [List.getD_eq_getElem?_getD, h, show off < r.length by omega]
  · rw [if_neg h, if_neg h]
    rw [List.getElem?_eq_none (by omega : r.length ≤ off + 1)]
    cases r[off]? <;> rfl

theorem unpackImage_eq (r : List Byte) :
    unpackImage r = (List.range 5120).flatMap (fun i =>
      [if 4 + 2 * i + 1 < r.length then r.getD (4 + 2 * i) 0#8 else 0#8,
       if 4 + 2 * i + 1 < r.length then r.getD (4 + 2 * i + 1) 0#8 else 0#8]) := by
  simp only [unpackImage, windowOrZero_eq, Config.npix, Config.imgHdrLen]

theorem unpackImage_length (r : List Byte) : (unpackImage r).length = 10240 := by
  rw [unpackImage_eq, length_flatMap_pairs]

/-- Pixel by pixel: copied where its window exists, zero otherwise. -/
theorem unpackImage_pixel (r : List Byte) {i : Nat} (h : i < 5120) :
    (4 + 2 * i + 1 < r.length →
      (unpackImage r)[2 * i]? = r[4 + 2 * i]? ∧ (unpackImage r)[2 * i + 1]? = r[4 + 2 * i + 1]?) ∧
    (¬ 4 + 2 * i + 1 < r.length →
      (unpackImage r)[2 * i]? = some 0#8 ∧ (unpackImage r)[2 * i + 1]? = some 0#8) := by
  obtain ⟨h1, h2⟩ := getElem?_flatMap_pairs
    (fun i => if 4 + 2 * i + 1 < r.length then r.getD (4 + 2 * i) 0#8 else 0#8)
    (fun i => if 4 + 2 * i + 1 < r.length then r.getD (4 + 2 * i + 1) 0#8 else 0#8) h
  rw [unpackImage_eq, h1, h2]
  refine ⟨fun hw => ?_, fun hw => ?_⟩
  · simp only [if_pos hw]
    rw [List.getElem?_eq_getElem (by omega : 4 + 2 * i < r.length), List.getElem?_eq_getElem hw]
    simp [List.getD_eq_getElem?_getD, hw, show 4 + 2 * i < r.length by omega]
  · simp only [if_neg hw, and_self]

theorem copiedPixels_le (m : Nat) : copiedPixels m ≤ 5120 := by simp only [copiedPixels, Config.npix]; omega

theorem copiedPixels_full {m : Nat} (h : 10244 ≤ m) : copiedPixels m = 5120 := by
  simp only [copiedPixels, Config.npix, Config.imgHdrLen]; omega

/-- The raster as the prefix of the response that its windows cover, then zeros (R134). -/
theorem unpackImage_prefix (r : List Byte) :
    unpackImage r =
      (r.drop 4).take (2 * copiedPixels r.length) ++ List.replicate (10240 - 2 * copiedPixels r.length) 0#8 := by
  have hk := copiedPixels_le r.length
  have hl : ((r.drop 4).take (2 * copiedPixels r.length)).length = 2 * copiedPixels r.length := by
    simp only [List.length_take, List.length_drop, copiedPixels, Config.npix, Config.imgHdrLen]; omega
  have key : ∀ i, i < 5120 → (4 + 2 * i + 1 < r.length ↔ i < copiedPixels r.length) := by
    intro i hi; simp only [copiedPixels, Config.npix, Config.imgHdrLen]; omega
  have pair : ∀ i b, i < 5120 → b < 2 → (unpackImage r)[2 * i + b]? =
      ((r.drop 4).take (2 * copiedPixels r.length) ++
        List.replicate (10240 - 2 * copiedPixels r.length) 0#8)[2 * i + b]? := by
    intro i b hi hb
    obtain ⟨p1, p2⟩ := unpackImage_pixel r hi
    by_cases hc : i < copiedPixels r.length
    · obtain ⟨q1, q2⟩ := p1 ((key i hi).mpr hc)
      rw [List.getElem?_append_left (by omega), List.getElem?_take_of_lt (by omega), List.getElem?_drop]
      rcases (by omega : b = 0 ∨ b = 1) with rfl | rfl
      · simpa using q1
      · simpa [Nat.add_assoc] using q2
    · obtain ⟨q1, q2⟩ := p2 (fun hw => hc ((key i hi).mp hw))
      rw [List.getElem?_append_right (by omega), List.getElem?_replicate, if_pos (by omega)]
      rcases (by omega : b = 0 ∨ b = 1) with rfl | rfl
      · simpa using q1
      · exact q2
  refine List.ext_getElem? (fun j => ?_)
  rcases Nat.lt_or_ge j 10240 with hj | hj
  · have := pair (j / 2) (j % 2) (by omega) (by omega)
    rwa [show 2 * (j / 2) + j % 2 = j by omega] at this
  · rw [List.getElem?_eq_none (by rw [unpackImage_length]; exact hj),
      List.getElem?_eq_none (by rw [List.length_append, List.length_replicate, hl]; omega)]

theorem imageRejected_storeResponse (r : List Byte) (s : State) :
    (s.storeResponse r).imageRejected = (!s.lenient && decide (r.length ≠ 10246)) := by
  simp only [State.imageRejected, State.storeResponse_lenient, State.storeResponse_rxlen, saturate14_toNat,
    Config.imgRespLen]
  congr 1
  simp only [decide_eq_decide]
  omega

/-- The register view of IMG is the pure function: a response just stored, of any length, is unpacked whole. -/
theorem rasterOfResponse?_storeResponse (r : List Byte) (s : State) :
    (s.storeResponse r).rasterOfResponse? = some (unpackImage r) := by
  have hm : copiedPixels (saturate14 r.length).toNat = copiedPixels r.length := by
    rw [saturate14_toNat]; simp only [copiedPixels, Config.npix, Config.imgHdrLen]; omega
  have hb : 4 + 2 * copiedPixels r.length ≤ (r.take Space.rxbuf.size).length ∨ copiedPixels r.length = 0 := by
    simp only [copiedPixels, Config.npix, Config.imgHdrLen, List.length_take, Space.size_rxbuf]; omega
  simp only [State.rasterOfResponse?, State.storeResponse_mem, State.storeResponse_rxlen, hm, Config.imgHdrLen,
    Config.rasterLen]
  rw [unpackImage_prefix]
  rcases hb with hb | hb
  · rw [Memory.read?_write_zero _ _ _ _ _ hb, Option.map_some]
    have hk : 2 * copiedPixels r.length ≤ 10240 := by have := copiedPixels_le r.length; omega
    rw [List.drop_take, List.take_take, Space.size_rxbuf, show min (2 * copiedPixels r.length) (10246 - 4)
      = 2 * copiedPixels r.length by omega]
  · simp only [hb, Nat.mul_zero, List.take_zero]
    rw [Memory.read?_zero, Option.map_some]

/-- What IMG can answer next: a raster of 10240 bytes, or `TruncatedFrame`. -/
theorem rasterOfResponse?_length {s : State} {out : List Byte} (h : s.rasterOfResponse? = some out) :
    out.length = 10240 := by
  simp only [State.rasterOfResponse?, Option.map_eq_some_iff] at h
  obtain ⟨px, hpx, rfl⟩ := h
  have := Memory.read?_length hpx
  have := copiedPixels_le s.rxlen.toNat
  simp only [List.length_append, List.length_replicate, Config.rasterLen]
  omega

theorem unpackOperand_next {s t : State} (h : unpackOperand s = .next t) :
    (s.imageRejected = false ∧ ∃ out, s.rasterOfResponse? = some out ∧
      t = ((s.latch .img).writeRaster out).completeOp) ∨
    (s.imageRejected = true ∧ t = (s.latch .img).raiseError .img .truncatedFrame none) := by
  unfold unpackOperand at h
  split at h
  · rename_i hr
    exact .inr ⟨hr, by cases h; rfl⟩
  · rename_i hr
    cases ho : s.rasterOfResponse? with
    | none => rw [ho] at h; cases h
    | some out => rw [ho] at h; exact .inl ⟨by simpa using hr, out, rfl, by cases h; rfl⟩

/-- IMG of a response just stored: the verdict and the raster of the pure function. -/
theorem unpackOperand_storeResponse (r : List Byte) (s : State) :
    unpackOperand (s.storeResponse r) =
      if s.lenient = false ∧ r.length ≠ 10246 then
        .next (((s.storeResponse r).latch .img).raiseError .img .truncatedFrame none)
      else .next (((s.storeResponse r).latch .img).writeRaster (unpackImage r)).completeOp := by
  simp only [unpackOperand, rasterOfResponse?_storeResponse, imageRejected_storeResponse]
  by_cases h : s.lenient = false ∧ r.length ≠ 10246
  · rw [if_pos h, if_pos (by simp [h.1, h.2])]
  · rw [if_neg h, if_neg (by simpa using h)]

/-- The raster of a complete response is its pixel bytes. -/
theorem unpackImage_complete {h px tr : List Byte} (h1 : h.length = 4) (h2 : px.length = 10240) (h3 : tr.length = 2) :
    unpackImage (h ++ px ++ tr) = px := by
  have hl : (h ++ px ++ tr).length = 10246 := by simp only [List.length_append]; omega
  rw [unpackImage_prefix, copiedPixels_full (by omega), List.append_assoc, List.drop_left' h1, List.take_left' h2]
  simp

/-- The raster written reads back. -/
theorem writeRaster_read (s : State) (r : List Byte) :
    (s.writeRaster (unpackImage r)).mem.read? .imgbuf 0 10240 = some (unpackImage r) := by
  rw [State.writeRaster_mem]
  exact Memory.read?_write_all (unpackImage_length r)

theorem decodeImageResponse_eq (l : Bool) (r : List Byte) :
    decodeImageResponse l r =
      if l = false ∧ r.length ≠ 10246 then .error .truncatedFrame else .ok (unpackImage r) := rfl

theorem decodeAcknowledgement_eq (r : List Byte) :
    decodeAcknowledgement r = if r.length = 7 then .ok () else .error .shortResponse := rfl

theorem encodeCommand_eq (p : List Byte) :
    encodeCommand p = if payloadOk p = true then .ok (frameOf p) else .error .encodingError := by
  unfold encodeCommand
  by_cases h : payloadOk p = true
  · rw [if_pos h, if_neg]
    rw [payloadOk_iff] at h
    simp only [Config.payloadMax]
    omega
  · rw [if_neg h, if_pos]
    rw [payloadOk_iff] at h
    simp only [Config.payloadMax]
    omega

theorem sameBytes_iff (vs ws : List Byte) : sameBytes vs ws = true ↔ vs = ws := by
  induction vs generalizing ws with
  | nil => cases ws <;> simp [sameBytes]
  | cons v vs ih =>
    cases ws with
    | nil => simp [sameBytes]
    | cons w ws =>
      simp only [sameBytes, List.cons.injEq]
      split <;> simp_all

/-- Handing over is of the raster `IMGBUF` holds, and of nothing else. -/
theorem sameRaster_iff (o : Option (List Byte)) (px : List Byte) : sameRaster o px = true ↔ o = some px := by
  cases o <;> simp [sameRaster, sameBytes_iff]

/-! ## The halves of a capture step -/

/-- The rows of R161 as the sequencer's functions. -/
theorem sendRows_spec {q q' : SState} {k : CaptureStep} (h : (q, k, q') ∈ sendRows) (s : State) (hs : s.sstate = q) :
    sendStep? s.sstate = some k ∧ (s.sent k).sstate = q' := by
  simp only [sendRows, List.mem_cons, Prod.mk.injEq, List.not_mem_nil, or_false] at h
  rcases h with ⟨rfl, rfl, rfl⟩ | ⟨rfl, rfl, rfl⟩ | ⟨rfl, rfl, rfl⟩ | ⟨rfl, rfl, rfl⟩ <;> rw [hs] <;>
    first | exact ⟨rfl, hs⟩ | exact ⟨rfl, rfl⟩

theorem ackRows_spec {q q' : SState} {k : CaptureStep} (h : (q, k, q') ∈ ackRows) :
    recvStep? q = some k ∧ k ≠ .four ∧ nextState k = q' ∧ expectedLen k = 7 := by
  simp only [ackRows, List.mem_cons, Prod.mk.injEq, List.not_mem_nil, or_false] at h
  rcases h with ⟨rfl, rfl, rfl⟩ | ⟨rfl, rfl, rfl⟩ | ⟨rfl, rfl, rfl⟩ <;> decide

theorem recvRows_spec {q : SState} {k : CaptureStep} (h : (q, k) ∈ recvRows) :
    recvStep? q = some k ∧ expectedLen k = (if k = .four then 10246 else 7) := by
  simp only [recvRows, List.mem_cons, Prod.mk.injEq, List.not_mem_nil, or_false] at h
  rcases h with ⟨rfl, rfl⟩ | ⟨rfl, rfl⟩ | ⟨rfl, rfl⟩ | ⟨rfl, rfl⟩ <;> decide

theorem callSend_mem (k : CaptureStep) (s : State) :
    (s.callSend k).mem = (s.mem.write .pbuf 0 (cmdPayload k)).write .txbuf 0 (wireFrame k) := by
  rw [← frameOf_cmdPayload]
  have : (cmdPayload k).take Space.pbuf.size = cmdPayload k := by cases k <;> rfl
  simp [State.callSend, this]

theorem callSend_trace (k : CaptureStep) (s : State) : (s.callSend k).trace = s.trace ++ [.send (wireFrame k)] := by
  rw [← frameOf_cmdPayload]; rfl

theorem callSend_plen (k : CaptureStep) (s : State) : (s.callSend k).plen.toNat = (cmdPayload k).length := by
  cases k <;> rfl

theorem callSend_txlen (k : CaptureStep) (s : State) : (s.callSend k).txlen.toNat = (wireFrame k).length := by
  cases k <;> rfl

theorem callSend_pbuf (k : CaptureStep) (s : State) :
    (s.callSend k).mem.read? .pbuf 0 (cmdPayload k).length = some (cmdPayload k) := by
  rw [callSend_mem, Memory.read?_write_other _ _ _ _ _ (by decide), Memory.read?_write_all rfl]

theorem callSend_txbuf (k : CaptureStep) (s : State) :
    (s.callSend k).mem.read? .txbuf 0 (wireFrame k).length = some (wireFrame k) := by
  rw [callSend_mem, Memory.read?_write_all rfl]

theorem callSend_frame (k : CaptureStep) (s : State) (sq : Space) (x : Nat)
    (h1 : ¬ (sq = .pbuf ∧ x < (cmdPayload k).length)) (h2 : ¬ (sq = .txbuf ∧ x < (wireFrame k).length)) :
    (s.callSend k).mem.byte? sq x = s.mem.byte? sq x := by
  rw [callSend_mem, Memory.sameBut_write _ _ (Nat.le_refl _) sq x h2, Memory.sameBut_write _ _ (Nat.le_refl _) sq x h1]

/-- The receive half of an ack step on data: the verdict is on the length (R161). -/
theorem receiveData_ack {k : CaptureStep} (hk : k ≠ .four) (r : List Byte) (s : State) :
    receiveData k r s =
      if r.length = 7 then .next (((s.callRecv k).storeResponse r).advance k)
      else .next (((s.callRecv k).storeResponse r).failStep .shortResponse k) := by
  have ha := ackOk_storeResponse r (s.callRecv k)
  cases k <;> first | exact absurd rfl hk | (simp only [receiveData, validateStep, ha, decide_eq_true_eq])

/-- The receive half of the image step on data (R161, R174). -/
theorem receiveData_image (r : List Byte) (s : State) :
    receiveData .four r s =
      if s.lenient = false ∧ r.length ≠ 10246 then
        .next (((s.callRecv .four).storeResponse r).failStep .truncatedFrame .four)
      else .next (((s.callRecv .four).storeResponse r).writeRaster (unpackImage r)).completeCapture := by
  simp only [receiveData, validateStep, rasterOfResponse?_storeResponse, imageRejected_storeResponse,
    State.callRecv_lenient]
  by_cases h : s.lenient = false ∧ r.length ≠ 10246
  · rw [if_pos h, if_pos (by simp [h.1, h.2])]
  · rw [if_neg h, if_neg (by simpa using h)]

/-- The receive half of a step always answers a next state. -/
theorem receiveData_is_next (k : CaptureStep) (r : List Byte) (s : State) : ∃ t, receiveData k r s = .next t := by
  by_cases hk : k = .four
  · subst hk; rw [receiveData_image]; split <;> exact ⟨_, rfl⟩
  · rw [receiveData_ack hk]; split <;> exact ⟨_, rfl⟩

theorem transmit_ok {k : CaptureStep} {s : State} {rest : List SendOutcome} (h : s.sendAnswers = .ok :: rest) :
    transmit k s = .next (((s.takeSend rest).callSend k).sent k) := by
  simp only [transmit, h]

theorem transmit_error {k : CaptureStep} {s : State} {rest : List SendOutcome} (h : s.sendAnswers = .error :: rest) :
    transmit k s = .next (((s.takeSend rest).callSend k).failStep .transportFailure k) := by
  simp only [transmit, h]

theorem exec_stepInstr (k : CaptureStep) (s : State) : exec (stepInstr k) s = runFrame k s := by cases k <;> rfl

theorem runFrame_at {k : CaptureStep} {s : State} (hb : s.status.busy = true) (hp : s.phase = .send)
    (hk : sendStep? s.sstate = some k) : runFrame k s = transmit k s := by
  simp only [runFrame, hb, if_true, hp, hk, and_self]

theorem receiveOutstanding_at {k : CaptureStep} {s : State} (r : List Byte) (hp : s.phase = .recv)
    (hk : recvStep? s.sstate = some k) : receiveOutstanding r s = receiveData k r s := by
  simp only [receiveOutstanding, hp, hk]

end Sys2Proof.Machine
end

