-- ==== Sys2Proof/Laws/PerInstr.lean ====
section
/-! SUPPORT. Per-instruction families: how many bytes the encoding of a well-formed instruction has (30_encoding.md R80). -/

namespace Sys2Proof.Laws

/-- The bytes of a word are as many as its format has: one code, the payload and four, 7, 10246, 10240. -/
def FormatLength.Statement (i : Instr) : Prop :=
  i.wellFormed = true →
    match i.format with
    | .op => (encode i).length = 1
    | .cf => 5 ≤ (encode i).length ∧ (encode i).length ≤ 259
    | .ar => (encode i).length = 7
    | .ir => (encode i).length = 10246
    | .sf => (encode i).length = 10240

theorem FormatLength.enc : FormatLength.Statement .enc := fun _ => rfl

theorem FormatLength.ack : FormatLength.Statement .ack := fun _ => rfl

theorem FormatLength.img : FormatLength.Statement .img := fun _ => rfl

theorem FormatLength.capture : FormatLength.Statement .capture := fun _ => rfl

theorem FormatLength.cmdFrame (p : List Byte) : FormatLength.Statement (.cmdFrame p) := by
  intro h
  have hp := (payloadOk_iff p).mp (by simpa [Instr.wellFormed] using (Bool.and_eq_true_iff.mp h).1)
  simp only [Instr.format, encode, frameOf_length]
  omega

theorem FormatLength.statusCheck : FormatLength.Statement .statusCheck := fun _ => ⟨by decide, by decide⟩

theorem FormatLength.prepareSensor : FormatLength.Statement .prepareSensor := fun _ => ⟨by decide, by decide⟩

theorem FormatLength.triggerCapture : FormatLength.Statement .triggerCapture := fun _ => ⟨by decide, by decide⟩

theorem FormatLength.requestImage : FormatLength.Statement .requestImage := fun _ => ⟨by decide, by decide⟩

theorem FormatLength.ackResp (r : List Byte) : FormatLength.Statement (.ackResp r) :=
  fun h => of_decide_eq_true (p := r.length = 7) h

theorem FormatLength.imgResp (h px t : List Byte) : FormatLength.Statement (.imgResp h px t) := by
  intro hw
  obtain ⟨h1, h2, h3⟩ := of_decide_eq_true hw
  simp only [Config.imgHdrLen, Config.rasterLen, Config.imgTrailerLen] at h1 h2 h3
  simp only [Instr.format, encode, List.length_append]
  omega

theorem FormatLength.sensorFrame (px : List Byte) : FormatLength.Statement (.sensorFrame px) :=
  fun h => of_decide_eq_true (p := px.length = 10240) h

end Sys2Proof.Laws
end

