-- ==== Sys2Proof/Laws/Step.lean ====
section
/-! SUPPORT. What a step can do, said once: the turns of the machine, and the inversion of a step that answers a next
state. -/

namespace Sys2Proof.Machine

/-- The registers, the buffers and the trace are the same; only pending events, the transport's answers, what the host
observed and the model's counter may differ. -/
structure State.SameRegisters (s u : State) : Prop where
  lenient : u.lenient = s.lenient
  timeout : u.timeout = s.timeout
  cmd : u.cmd = s.cmd
  status : u.status = s.status
  sstate : u.sstate = s.sstate
  phase : u.phase = s.phase
  plen : u.plen = s.plen
  txlen : u.txlen = s.txlen
  rxlen : u.rxlen = s.rxlen
  mem : u.mem = s.mem
  trace : u.trace = s.trace

theorem State.SameRegisters.refl (s : State) : s.SameRegisters s := ⟨rfl, rfl, rfl, rfl, rfl, rfl, rfl, rfl, rfl, rfl, rfl⟩

theorem State.sameRegisters_outside (s : State) (ho : List HostEvent) (sa : List SendOutcome) (ra : List RecvOutcome)
    (ob : Option Observation) (n : Nat) :
    s.SameRegisters { s with host := ho, sendAnswers := sa, recvAnswers := ra, observed := ob, freeIdx := n } :=
  ⟨rfl, rfl, rfl, rfl, rfl, rfl, rfl, rfl, rfl, rfl, rfl⟩

/-- The turns of the machine that answer a next state. -/
inductive Turned : State → State → Prop where
  | stays (u : State) : Turned u u
  | observes (u : State) (o : Observation) : Turned u (u.observe o)
  | encodes {u t : State} (h : u.status.busy = false) (ht : encodeOperand u = .next t) : Turned u t
  | encodesPayload {u t : State} (p : List Byte) (h : u.status.busy = false) (hp : payloadOk p = true)
      (ht : encodePayload p u = .next t) : Turned u t
  | validates {u t : State} (h : u.status.busy = false) (ht : validateOperand u = .next t) : Turned u t
  | validatesResponse {u t : State} (r : List Byte) (h : u.status.busy = false)
      (ht : validateOperand (u.storeResponse r) = .next t) : Turned u t
  | unpacks {u t : State} (h : u.status.busy = false) (ht : unpackOperand u = .next t) : Turned u t
  | unpacksResponse {u t : State} (r : List Byte) (h : u.status.busy = false)
      (ht : unpackOperand (u.storeResponse r) = .next t) : Turned u t
  | starts (u : State) (h : u.status.busy = false) : Turned u u.startSession
  | sends {u t : State} (k : CaptureStep) (h : u.status.busy = true) (hp : u.phase = .send)
      (hk : sendStep? u.sstate = some k) (ht : transmit k u = .next t) : Turned u t
  | receives {u t : State} (k : CaptureStep) (r : List Byte) (h : u.status.busy = true) (hp : u.phase = .recv)
      (hk : recvStep? u.sstate = some k) (ht : receiveData k r u = .next t) : Turned u t
  | receiveFails (u : State) (e : FceError) (k : CaptureStep) (he : e = .timeout ∨ e = .transportFailure)
      (h : u.status.busy = true) (hp : u.phase = .recv) (hk : recvStep? u.sstate = some k) : Turned u (u.recvFailed e k)
  | writes {u t : State} (w : HostWrite) (ht : hostWrite w u = .next t) : Turned u t
  | resets (u : State) (h : u.status.busy = false) : Turned u u.resetRegisters

/-- A decoded command frame has a payload of a legal length, or is one of the fixed four. -/
theorem decode_cmdFrame {f : Format} {bytes p : List Byte} (h : decode f bytes = .ok (.cmdFrame p)) :
    payloadOk p = true := by
  cases f with
  | op => simp only [decode, decodeOp] at h; repeat' split at h
          all_goals cases h
  | ar => simp only [decode, decodeAckResp] at h; split at h <;> cases h
  | ir => simp only [decode, decodeImgResp] at h; split at h <;> cases h
  | sf => simp only [decode, decodeSensorFrame] at h; split at h <;> cases h
  | cf =>
    simp only [decode] at h
    unfold decodeFrame at h
    split at h
    · rename_i h0 h1 len rest
      split at h
      · cases h
      split at h
      · cases h
      split at h
      · cases h
      rename_i hlen
      split at h
      · cases h
      rename_i hrest
      split at h
      · cases h
      have hq := Except.ok.inj h
      have hl : (rest.take len.toNat).length = len.toNat := by
        have : rest.length = len.toNat + 1 := by simpa using hrest
        rw [List.length_take]; omega
      have hpos : len.toNat ≠ 0 := fun hz => hlen (BitVec.eq_of_toNat_eq (by simpa using hz))
      unfold frameInstr at hq
      repeat' split at hq
      all_goals cases hq
      rw [payloadOk_iff, hl]
      have := len.isLt
      omega
    · cases h

/-- exec while nothing runs. -/
theorem exec_idle {i : Instr} {u t : State} (hb : u.status.busy = false) (hi : ∀ p, i = .cmdFrame p → payloadOk p = true)
    (h : exec i u = .next t) : Turned u t := by
  have frame : ∀ k, runFrame k u = .next t → Turned u t := by
    intro k hk
    rw [runFrame, hb] at hk
    exact .encodesPayload (cmdPayload k) hb (by cases k <;> decide) (by simpa using hk)
  cases i with
  | enc => exact .encodes hb (by simpa [exec, execEnc, hb] using h)
  | ack => exact .validates hb (by simpa [exec, execAck, hb] using h)
  | img => exact .unpacks hb (by simpa [exec, execImg, hb] using h)
  | capture =>
    simp only [exec, execCapture, hb, Bool.false_eq_true, if_false] at h
    cases h
    exact .starts u hb
  | cmdFrame p => exact .encodesPayload p hb (hi p rfl) (by simpa [exec, execCmdFrame, hb] using h)
  | statusCheck => exact frame .one h
  | prepareSensor => exact frame .two h
  | triggerCapture => exact frame .three h
  | requestImage => exact frame .four h
  | ackResp r => exact .validatesResponse r hb (by simpa [exec, execAckResp, hb] using h)
  | imgResp a px b => exact .unpacksResponse (a ++ px ++ b) hb (by simpa [exec, execImgResp, hb] using h)
  | sensorFrame px =>
    simp only [exec, execSensorFrame, hb, Bool.false_eq_true, if_false] at h
    split at h
    · cases h
    · split at h
      · cases h; exact .observes u (.raster px)
      · cases h

/-- A response decodes only to the response row of its format, and carries its bytes. -/
theorem decode_response {k : CaptureStep} {r : List Byte} {i : Instr} (h : decode (responseFormat k) r = .ok i) :
    i = .ackResp r ∨ ∃ a px b, i = .imgResp a px b ∧ a ++ px ++ b = r := by
  have ack : decodeAckResp r = .ok i → i = .ackResp r := by
    intro h; unfold decodeAckResp at h; split at h <;> cases h; rfl
  cases k with
  | one => exact .inl (ack h)
  | two => exact .inl (ack h)
  | three => exact .inl (ack h)
  | four =>
    simp only [responseFormat, decode, decodeImgResp] at h
    split at h
    · cases h
      refine .inr ⟨_, _, _, rfl, ?_⟩
      rw [← List.drop_drop, List.append_assoc, List.take_append_drop, List.take_append_drop]
    · cases h

/-- exec of a delivered response at a receive position is the receive half of that step. -/
theorem exec_response {k : CaptureStep} {r : List Byte} {i : Instr} {u : State} (h : decode (responseFormat k) r = .ok i)
    (hb : u.status.busy = true) (hp : u.phase = .recv) (hk : recvStep? u.sstate = some k) :
    exec i u = receiveData k r u := by
  rcases decode_response h with rfl | ⟨a, px, b, rfl, hr⟩
  · simp only [exec, execAckResp, hb, if_true, receiveOutstanding_at _ hp hk]
  · simp only [exec, execImgResp, hb, if_true, receiveOutstanding_at _ hp hk, hr]

/-- The sequencer's turn as an outcome. -/
def runFetched : Fetched → StepOutcome
  | .ok (i, t) => exec i t
  | .error o => o

theorem step_eq (s : State) : step s = runFetched (fetch s) := by
  unfold step runFetched
  split <;> simp_all

/-- The send turn at a position: the send half of its step. -/
theorem run_fetchSend {s : State} {k : CaptureStep} (hb : s.status.busy = true) (hp : s.phase = .send)
    (hk : sendStep? s.sstate = some k) (ha : s.sendAnswers ≠ []) : runFetched (fetchSend s) = transmit k s.tick := by
  obtain ⟨a, rest, ha⟩ := List.exists_cons_of_ne_nil ha
  simp only [fetchSend, hk, ha, fetchWord, decode_cmdPayload, runFetched, exec_stepInstr]
  exact runFrame_at (by simpa using hb) (by simpa using hp) (by simpa using hk)

/-- The receive turn at a position, on data: the receive half of its step. -/
theorem run_fetchRecv_data {s : State} {k : CaptureStep} {r : List Byte} {rest : List RecvOutcome}
    (hb : s.status.busy = true) (hp : s.phase = .recv) (hk : recvStep? s.sstate = some k)
    (ha : s.recvAnswers = .data r :: rest) :
    runFetched (fetchRecv s) = receiveData k r (s.tick.takeRecv rest) := by
  simp only [fetchRecv, hk, ha]
  cases hd : decode (responseFormat k) r with
  | error e => rfl
  | ok i => exact exec_response hd (by simpa using hb) (by simpa using hp) (by simpa using hk)

/-- Every turn of the sequencer that answers a next state. -/
theorem sequencerTurn_next {s t : State} (h : runFetched (sequencerTurn s) = .next t) :
    ∃ u, s.SameRegisters u ∧ Turned u t := by
  unfold sequencerTurn at h
  split at h
  · rename_i hb
    split at h
    · rename_i hp
      cases hk : sendStep? s.sstate with
      | none => simp only [fetchSend, hk, runFetched] at h; cases h; exact ⟨s, .refl s, .stays s⟩
      | some k =>
        by_cases ha : s.sendAnswers = []
        · simp only [fetchSend, hk, ha, runFetched] at h; cases h; exact ⟨s, .refl s, .stays s⟩
        · rw [run_fetchSend hb hp hk ha] at h
          exact ⟨s.tick, s.sameRegisters_outside _ _ _ _ _,
            .sends k (by simpa using hb) (by simpa using hp) (by simpa using hk) h⟩
    · rename_i hp
      cases hk : recvStep? s.sstate with
      | none => simp only [fetchRecv, hk, runFetched] at h; cases h; exact ⟨s, .refl s, .stays s⟩
      | some k =>
        cases ha : s.recvAnswers with
        | nil => simp only [fetchRecv, hk, ha, runFetched] at h; cases h; exact ⟨s, .refl s, .stays s⟩
        | cons a rest =>
          have hs : s.SameRegisters (s.tick.takeRecv rest) := s.sameRegisters_outside _ _ _ _ _
          cases a with
          | timeout =>
            simp only [fetchRecv, hk, ha, runFetched] at h
            cases h
            exact ⟨_, hs, .receiveFails _ _ k (.inl rfl) hb hp hk⟩
          | error =>
            simp only [fetchRecv, hk, ha, runFetched] at h
            cases h
            exact ⟨_, hs, .receiveFails _ _ k (.inr rfl) hb hp hk⟩
          | data r =>
            rw [run_fetchRecv_data hb hp hk ha] at h
            exact ⟨_, hs, .receives k r hb hp hk h⟩
  · simp only [runFetched] at h
    cases h
    exact ⟨s, .refl s, .stays s⟩

theorem hostRead_next {r : HostRead} {u t : State} (h : hostRead r u = .next t) : ∃ o, t = u.observe o := by
  have bytes : ∀ sp a n, readBytes sp a n u = .next t → ∃ o, t = u.observe o := by
    intro sp a n h
    unfold readBytes at h
    split at h
    · cases h
    · cases h; exact ⟨_, rfl⟩
  cases r with
  | reg r =>
    simp only [hostRead] at h
    cases r <;> simp only [hostReadReg] at h <;> (repeat' split at h) <;> cases h <;> exact ⟨_, rfl⟩
  | buffer sp a n =>
    simp only [hostRead, hostReadBuffer] at h
    (repeat' split at h) <;> first | exact bytes _ _ _ h | cases h

/-- INVERSION OF A STEP: a step that answers a next state is one turn of the machine, from a state whose registers,
buffers and trace are those before the step. -/
theorem step_next {s t : State} (h : step s = .next t) : ∃ u, s.SameRegisters u ∧ Turned u t := by
  rw [step_eq, fetch] at h
  have word : ∀ f bytes (u : State), s.SameRegisters u → u.status.busy = false →
      runFetched (fetchWord f bytes u) = .next t → ∃ u, s.SameRegisters u ∧ Turned u t := by
    intro f bytes u hu hb h
    unfold fetchWord at h
    cases hd : decode f bytes with
    | error e => rw [hd] at h; cases h
    | ok i =>
      rw [hd] at h
      exact ⟨u, hu, exec_idle hb (fun p hp => decode_cmdFrame (hp ▸ hd)) h⟩
  cases hh : s.host with
  | nil => rw [hh] at h; exact sequencerTurn_next h
  | cons ev rest =>
    rw [hh] at h
    have hs : s.SameRegisters (s.afterEvent rest) := s.sameRegisters_outside _ _ _ _ _
    cases ev with
    | await =>
      simp only at h
      split at h
      · exact sequencerTurn_next h
      · simp only [runFetched] at h; cases h; exact ⟨_, hs, .stays _⟩
    | turn =>
      obtain ⟨u, hu, ht⟩ := sequencerTurn_next h
      exact ⟨u, ⟨hu.lenient, hu.timeout, hu.cmd, hu.status, hu.sstate, hu.phase, hu.plen, hu.txlen, hu.rxlen, hu.mem,
        hu.trace⟩, ht⟩
    | issue f bytes =>
      simp only at h
      split at h
      · cases h
      · rename_i hb
        exact word f bytes _ hs (by simpa using hb) h
    | handOver =>
      simp only [fetchRaster] at h
      split at h
      · cases h
      · rename_i hb
        split at h
        · cases h
        · split at h
          · cases h
          · exact word _ _ _ hs (by simpa using hb) h
    | write w => exact ⟨_, hs, .writes w h⟩
    | read r =>
      obtain ⟨o, rfl⟩ := hostRead_next h
      exact ⟨{ s with host := rest }, s.sameRegisters_outside _ _ _ _ _, .observes _ o⟩
    | useTransport =>
      simp only [transportUsed, runFetched] at h
      split at h
      · cases h
      · cases h; exact ⟨_, hs, .stays _⟩
    | reset =>
      simp only [hostReset, runFetched] at h
      split at h
      · cases h
      · rename_i hb
        split at h
        · cases h; exact ⟨_, hs, .resets _ (by simpa using hb)⟩
        · cases h

/-- What a host write can answer next: nothing changes, or one of the host's own registers or buffers does, and then
no operation runs. -/
theorem hostWrite_next {w : HostWrite} {u t : State} (h : hostWrite w u = .next t) :
    t = u ∨ (u.status.busy = false ∧
      ((∃ v, w = .cfg v ∧ t = { u with lenient := cfgLenient v }) ∨ (∃ v, w = .timeout v ∧ t = { u with timeout := v }) ∨
       (∃ n, w = .plen n ∧ t = { u with plen := saturate9 n }) ∨ (∃ n, w = .rxlen n ∧ t = { u with rxlen := saturate14 n }) ∨
       ∃ sp a bs, w = .buffer sp a bs ∧ (sp = .pbuf ∨ sp = .rxbuf) ∧ a + bs.length ≤ sp.size ∧
         t = { u with mem := u.mem.write sp a bs })) := by
  cases w with
  | cfg v => simp only [hostWrite] at h; split at h <;> cases h; exact .inr ⟨by simp_all, .inl ⟨v, rfl, rfl⟩⟩
  | timeout v => simp only [hostWrite] at h; split at h <;> cases h; exact .inr ⟨by simp_all, .inr (.inl ⟨v, rfl, rfl⟩)⟩
  | status v => cases h; exact .inl rfl
  | sstate v => cases h; exact .inl rfl
  | plen n =>
    simp only [hostWrite] at h
    split at h <;> cases h
    exact .inr ⟨by simp_all, .inr (.inr (.inl ⟨n, rfl, rfl⟩))⟩
  | txlen n => cases h; exact .inl rfl
  | rxlen n =>
    simp only [hostWrite] at h
    split at h <;> cases h
    exact .inr ⟨by simp_all, .inr (.inr (.inr (.inl ⟨n, rfl, rfl⟩)))⟩
  | buffer sp a bs =>
    cases sp <;> simp only [hostWrite, hostWriteBuffer] at h <;> (repeat' split at h) <;> cases h
    · exact .inr ⟨by simp_all, .inr (.inr (.inr (.inr ⟨.pbuf, a, bs, rfl, .inl rfl, of_decide_eq_true ‹_›, rfl⟩)))⟩
    · exact .inl rfl
    · exact .inr ⟨by simp_all, .inr (.inr (.inr (.inr ⟨.rxbuf, a, bs, rfl, .inr rfl, of_decide_eq_true ‹_›, rfl⟩)))⟩
    · exact .inl rfl

/-- Where the sequencer has the turn and a CAPTURE runs, a step is its turn. -/
theorem step_moves {s : State} {h : List HostEvent} (hw : s.SequencerMoves h) (hb : s.status.busy = true) :
    step s = runFetched (sequencerTurn { s with host := h }) := by
  rw [step_eq, fetch]
  rcases hw with ⟨hw | ⟨rest, hw⟩, rfl⟩ | hw
  · rw [hw]; simp only [← hw]
  · rw [hw]; simp only [hb, if_true, ← hw]
  · rw [hw]

theorem sequencerTurn_send {u : State} (hb : u.status.busy = true) (hp : u.phase = .send) :
    sequencerTurn u = fetchSend u := by rw [sequencerTurn, if_pos hb, hp]

theorem sequencerTurn_recv {u : State} (hb : u.status.busy = true) (hp : u.phase = .recv) :
    sequencerTurn u = fetchRecv u := by rw [sequencerTurn, if_pos hb, hp]

/-- At a send position with an answer given, the step is the send half. -/
theorem step_moves_sends {s : State} {h : List HostEvent} {k : CaptureStep} (hw : s.SequencerMoves h)
    (hb : s.status.busy = true) (hp : s.phase = .send) (hk : sendStep? s.sstate = some k) (ha : s.sendAnswers ≠ []) :
    step s = transmit k ({ s with host := h } : State).tick := by
  rw [step_moves hw hb, sequencerTurn_send (u := { s with host := h }) hb hp]
  exact run_fetchSend (s := { s with host := h }) hb hp hk ha

/-- At a receive position with data given, the step is the receive half. -/
theorem step_moves_receives {s : State} {h : List HostEvent} {k : CaptureStep} {r : List Byte}
    {rest : List RecvOutcome} (hw : s.SequencerMoves h) (hb : s.status.busy = true) (hp : s.phase = .recv)
    (hk : recvStep? s.sstate = some k) (ha : s.recvAnswers = .data r :: rest) :
    step s = receiveData k r (({ s with host := h } : State).tick.takeRecv rest) := by
  rw [step_moves hw hb, sequencerTurn_recv (u := { s with host := h }) hb hp]
  exact run_fetchRecv_data (s := { s with host := h }) hb hp hk ha

/-- At a receive position with `Timeout` or `Error` given, the session fails. -/
theorem step_moves_receive_fails {s : State} {h : List HostEvent} {k : CaptureStep} {rest : List RecvOutcome}
    (hw : s.SequencerMoves h) (hb : s.status.busy = true) (hp : s.phase = .recv) (hk : recvStep? s.sstate = some k) :
    (s.recvAnswers = .timeout :: rest →
      step s = .next ((({ s with host := h } : State).tick.takeRecv rest).recvFailed .timeout k)) ∧
    (s.recvAnswers = .error :: rest →
      step s = .next ((({ s with host := h } : State).tick.takeRecv rest).recvFailed .transportFailure k)) := by
  rw [step_moves hw hb, sequencerTurn_recv (u := { s with host := h }) hb hp]
  constructor <;> intro ha <;> simp only [fetchRecv, hk, ha, runFetched]

/-! The same where the host waits. -/

theorem step_hostWaits {s : State} (hw : s.HostWaits) (hb : s.status.busy = true) :
    step s = runFetched (sequencerTurn s) := step_moves (.inl ⟨hw, rfl⟩) hb

theorem step_sends {s : State} {k : CaptureStep} (hw : s.HostWaits) (hb : s.status.busy = true) (hp : s.phase = .send)
    (hk : sendStep? s.sstate = some k) (ha : s.sendAnswers ≠ []) : step s = transmit k s.tick :=
  step_moves_sends (.inl ⟨hw, rfl⟩) hb hp hk ha

theorem step_receives {s : State} {k : CaptureStep} {r : List Byte} {rest : List RecvOutcome} (hw : s.HostWaits)
    (hb : s.status.busy = true) (hp : s.phase = .recv) (hk : recvStep? s.sstate = some k)
    (ha : s.recvAnswers = .data r :: rest) : step s = receiveData k r (s.tick.takeRecv rest) :=
  step_moves_receives (.inl ⟨hw, rfl⟩) hb hp hk ha

theorem step_receive_fails {s : State} {k : CaptureStep} {rest : List RecvOutcome} (hw : s.HostWaits)
    (hb : s.status.busy = true) (hp : s.phase = .recv) (hk : recvStep? s.sstate = some k) :
    (s.recvAnswers = .timeout :: rest →
      step s = .next ((s.tick.takeRecv rest).recvFailed .timeout k)) ∧
    (s.recvAnswers = .error :: rest →
      step s = .next ((s.tick.takeRecv rest).recvFailed .transportFailure k)) :=
  step_moves_receive_fails (.inl ⟨hw, rfl⟩) hb hp hk

end Sys2Proof.Machine
end

