-- ==== Sys2Proof/Tests/Slice0.lean ====
section
/-! SUPPORT. Tests whose expected results are the spec's (R85, R90, 95_test_vectors.md V, S and P), and for every
obligation with hypotheses a witness that meets them. -/

namespace Sys2Proof.Tests

open Sys2Proof Sys2Proof.Machine

/-! ## Helpers -/

/-- A field of the next state; `none` where the step stopped. -/
def field {α : Type} (f : State → α) : StepOutcome → Option α
  | .next s => some (f s)
  | .fault _ => none
  | .refused _ => none

def faultOf : StepOutcome → Option Fault
  | .fault e => some e
  | .next _ => none
  | .refused _ => none

def refusalOf : StepOutcome → Option Refusal
  | .refused e => some e
  | .next _ => none
  | .fault _ => none

def zeros (n : Nat) : List Byte := List.replicate n 0#8

@[simp] theorem zeros_length (n : Nat) : (zeros n).length = n := List.length_replicate

theorem zeros_get {n i : Nat} (h : i < n) : (zeros n)[i]? = some 0#8 := by
  rw [zeros, List.getElem?_replicate, if_pos h]

/-- After reset, with a payload in `PBUF` and `PLEN`. -/
def withPayload (p : List Byte) : State := State.reset.presentPayload p

/-- After reset, with a response in `RXBUF` and `RXLEN`. -/
def withResponse (r : List Byte) : State := State.reset.storeResponse r

/-- A running CAPTURE at a position of R161, reached from reset. -/
def runningAt (q : SState) (ph : Phase) : State :=
  { State.reset with
    cmd := 3#2, status := State.reset.status.capturing, sstate := q, phase := ph,
    trace := (fullTrace 1000#32).take (callsMade q ph) }

/-- After reset, with a raster of zeros in `IMGBUF`. -/
def withRaster : State := State.reset.writeRaster (zeros 10240)

/-- After reset, with the host's next event. -/
def withEvent (e : HostEvent) : State := { State.reset with host := [e] }

/-! ## WellFormed: each check refuses an ill-formed term, and takes the terms at its bounds -/

theorem test_empty_payload_is_ill_formed : (Instr.cmdFrame []).wellFormed = false := by decide

theorem test_payload_of_256_is_ill_formed : (Instr.cmdFrame (zeros 256)).wellFormed = false := by
  simp [Instr.wellFormed, payloadOk]

theorem test_fixed_payloads_are_not_the_generic_row :
    (fixedPayloads.map (fun p => (Instr.cmdFrame p).wellFormed)) = [false, false, false, false] := by decide

theorem test_ack_of_six_is_ill_formed : (Instr.ackResp (zeros 6)).wellFormed = false := by decide

theorem test_ack_of_eight_is_ill_formed : (Instr.ackResp (zeros 8)).wellFormed = false := by decide

theorem test_image_header_of_three_is_ill_formed :
    (Instr.imgResp (zeros 3) (zeros 10240) (zeros 2)).wellFormed = false := by simp [Instr.wellFormed]

theorem test_image_of_5119_pixels_is_ill_formed :
    (Instr.imgResp (zeros 4) (zeros 10238) (zeros 2)).wellFormed = false := by simp [Instr.wellFormed]

theorem test_image_trailer_of_one_is_ill_formed :
    (Instr.imgResp (zeros 4) (zeros 10240) (zeros 1)).wellFormed = false := by simp [Instr.wellFormed]

theorem test_raster_of_10241_is_ill_formed : (Instr.sensorFrame (zeros 10241)).wellFormed = false := by
  simp [Instr.wellFormed]

/-- Also the witness of `DecodeOfEncodeIsTheInstruction`, at the bounds of every format. -/
theorem witness_DecodeOfEncodeIsTheInstruction :
    (Instr.cmdFrame [0x00#8]).wellFormed = true ∧ (Instr.ackResp (zeros 7)).wellFormed = true ∧
    (Instr.imgResp (zeros 4) (zeros 10240) (zeros 2)).wellFormed = true ∧
    (Instr.sensorFrame (zeros 10240)).wellFormed = true ∧ Instr.enc.wellFormed = true ∧
    Instr.requestImage.wellFormed = true := by
  refine ⟨by decide, by decide, by simp [Instr.wellFormed], by simp [Instr.wellFormed], rfl, rfl⟩

theorem witness_DecodeOfEncodeIsTheInstruction_longest_payload : (Instr.cmdFrame (zeros 255)).wellFormed = true := by
  have hf : ∀ p ∈ fixedPayloads, p.length ≤ 4 := by decide
  have hn : zeros 255 ∉ fixedPayloads := fun h => by
    have := hf _ h
    rw [zeros_length] at this
    omega
  simp [Instr.wellFormed, payloadOk, hn]

/-! ## Decode: words written out from R85, R90 and the vectors -/

theorem test_decode_ops :
    decode .op [0x00#8] = .ok .enc ∧ decode .op [0x01#8] = .ok .ack ∧ decode .op [0x02#8] = .ok .img ∧
    decode .op [0x03#8] = .ok .capture := by decide

theorem test_decode_status_check :
    decode .cf [0x02#8, 0x00#8, 0x04#8, 0x37#8, 0x01#8, 0x01#8, 0x01#8, 0x32#8] = .ok .statusCheck := by decide

theorem test_decode_prepare_sensor :
    decode .cf [0x02#8, 0x00#8, 0x03#8, 0x80#8, 0x02#8, 0x01#8, 0x80#8] = .ok .prepareSensor := by decide

theorem test_decode_trigger_capture :
    decode .cf [0x02#8, 0x00#8, 0x03#8, 0x82#8, 0x73#8, 0x01#8, 0xF3#8] = .ok .triggerCapture := by decide

theorem test_decode_request_image : decode .cf [0x02#8, 0x00#8, 0x01#8, 0x81#8, 0x80#8] = .ok .requestImage := by decide

/-- V13. -/
theorem test_decode_cmd_frame :
    decode .cf [0x02#8, 0x00#8, 0x04#8, 0x12#8, 0x34#8, 0x56#8, 0x78#8, 0x0C#8] =
      .ok (.cmdFrame [0x12#8, 0x34#8, 0x56#8, 0x78#8]) := by decide

/-- V22: seven bytes that are a command frame are an acknowledgement where one is expected. -/
theorem test_decode_ack_response :
    decode .ar [0x02#8, 0x00#8, 0x03#8, 0x80#8, 0x02#8, 0x01#8, 0x80#8] =
      .ok (.ackResp [0x02#8, 0x00#8, 0x03#8, 0x80#8, 0x02#8, 0x01#8, 0x80#8]) := by decide

/-- V31. -/
theorem test_decode_image_response :
    decode .ir ([0xDE#8, 0xAD#8, 0xBE#8, 0xEF#8] ++ zeros 10240 ++ [0xCA#8, 0xFE#8]) =
      .ok (.imgResp [0xDE#8, 0xAD#8, 0xBE#8, 0xEF#8] (zeros 10240) [0xCA#8, 0xFE#8]) := by
  have h : ([0xDE#8, 0xAD#8, 0xBE#8, 0xEF#8] ++ zeros 10240 ++ [0xCA#8, 0xFE#8]).length = 10246 := by simp
  have hz : (zeros 10240).length = 10240 := zeros_length _
  have h4 : ∀ x : List Byte, ([0xDE#8, 0xAD#8, 0xBE#8, 0xEF#8] ++ x).take 4 = [0xDE#8, 0xAD#8, 0xBE#8, 0xEF#8] ∧
      ([0xDE#8, 0xAD#8, 0xBE#8, 0xEF#8] ++ x).drop 4 = x := fun x => ⟨rfl, rfl⟩
  simp only [decode]
  rw [decodeImgResp, if_pos h]
  simp only [Config.imgHdrLen, Config.rasterLen, List.append_assoc]
  rw [← List.drop_drop, (h4 _).1, (h4 _).2, List.take_left' hz, List.drop_left' hz]

theorem test_decode_sensor_frame : decode .sf (zeros 10240) = .ok (.sensorFrame (zeros 10240)) := by
  simp [decode, decodeSensorFrame]

/-- Words that are no instruction, each by its reason (R31, R85, R93, R96, R82, R83, R84; C1 for the checksum 0x30). -/
theorem test_decode_rejects_by_name :
    decode .op [] = .error .opLength ∧ decode .op [0x04#8] = .error .opRange ∧
    decode .cf [0x02#8, 0x00#8] = .error .frameTooShort ∧
    decode .cf [0x03#8, 0x00#8, 0x01#8, 0x81#8, 0x80#8] = .error .badHdr0 ∧
    decode .cf [0x02#8, 0x01#8, 0x01#8, 0x81#8, 0x80#8] = .error .badHdr1 ∧
    decode .cf [0x02#8, 0x00#8, 0x00#8, 0x00#8] = .error .lenZero ∧
    decode .cf [0x02#8, 0x00#8, 0x02#8, 0x81#8, 0x80#8] = .error .lenMismatch ∧
    decode .cf [0x02#8, 0x00#8, 0x04#8, 0x37#8, 0x01#8, 0x01#8, 0x01#8, 0x30#8] = .error .badChecksum ∧
    decode .ar (zeros 6) = .error .ackLength ∧ decode .ir (zeros 7) = .error .imageLength ∧
    decode .sf (zeros 7) = .error .rasterLength := by decide

/-- The rows as the table numbers their bits: the first byte is the lowest. -/
theorem test_table_words :
    decodeTableWord 8 3 = some .capture ∧ decodeTableWord 64 0x3201010137040002 = some .statusCheck ∧
    decodeTableWord 56 0x80010280030002 = some .prepareSensor ∧ decodeTableWord 40 0x8081010002 = some .requestImage ∧
    decodeTableWord 56 0x07060504030201 =
      some (.ackResp [0x01#8, 0x02#8, 0x03#8, 0x04#8, 0x05#8, 0x06#8, 0x07#8]) ∧
    decodeTableWord 16 0x0002 = none := by decide

/-- A placed word is the next instruction run: V1 through `withFetchWord`. -/
theorem test_placed_word_runs :
    field (fun t => (t.txlen, t.mem.read? .txbuf 0 8)) (step (State.reset.withFetchWord 64 0x3201010137040002)) =
      some (8#9, some [0x02#8, 0x00#8, 0x04#8, 0x37#8, 0x01#8, 0x01#8, 0x01#8, 0x32#8]) := by decide

/-! ## One step of each instruction -/

/-- V13; `STATUS = 0x082` as P5 row 2. -/
theorem test_enc_frame :
    field (fun t => (t.status.word, t.mem.read? .txbuf 0 8)) (exec .enc (withPayload [0x12#8, 0x34#8, 0x56#8, 0x78#8])) =
      some (0x082#9, some [0x02#8, 0x00#8, 0x04#8, 0x12#8, 0x34#8, 0x56#8, 0x78#8, 0x0C#8]) := by decide

/-- V17: `RESULT = 2`, `TX_VALID = 0`. -/
theorem test_enc_empty : field (·.status.word) (exec .enc (withPayload [])) = some 0x004#9 := by decide

/-- V22. -/
theorem test_ack_seven :
    field (·.status.word) (exec .ack (withResponse [0x02#8, 0x00#8, 0x03#8, 0x80#8, 0x02#8, 0x01#8, 0x80#8])) =
      some 0x002#9 := by decide

/-- V26. -/
theorem test_ack_eight : field (·.status.word) (exec .ack (withResponse (zeros 8))) = some 0x008#9 := by decide

/-- P7: `IMG` right after reset is `TruncatedFrame`, and no byte is read. -/
theorem test_img_strict_empty : field (·.status.word) (exec .img State.reset) = some 0x00A#9 := by decide

/-- V48, `up(7)` lenient: pixel 0 copied, the odd byte not, `RESULT = OK`, `IMG_VALID = 1`. -/
theorem test_img_lenient_seven :
    field (fun t => (t.status.word, t.mem.read? .imgbuf 0 4))
        (exec .img { withResponse [0x01#8, 0x02#8, 0x03#8, 0x04#8, 0x05#8, 0x06#8, 0x07#8] with lenient := true }) =
      some (0x102#9, some [0x05#8, 0x06#8, 0x00#8, 0x00#8]) := by decide

/-- R171: `BUSY` set, `SSTATE` 0 again after an earlier session failed. -/
theorem test_capture_starts :
    field (fun t => (t.status.word, t.sstate, t.cmd)) (exec .capture { State.reset with sstate := .failed }) =
      some (0x001#9, .idle, 3#2) := by decide

/-- V8. -/
theorem test_cmd_frame :
    field (fun t => (t.status.word, t.mem.read? .txbuf 0 6)) (exec (.cmdFrame [0x02#8, 0x00#8]) State.reset) =
      some (0x082#9, some [0x02#8, 0x00#8, 0x02#8, 0x02#8, 0x00#8, 0x00#8]) := by decide

/-- P4: the device is gone before the first send. -/
theorem test_status_check_send_error :
    field (fun t => (t.status.word, t.sstate, t.trace))
        (exec .statusCheck { runningAt .idle .send with sendAnswers := [.error] }) =
      some (0x09C#9, .failed,
        [.send [0x02#8, 0x00#8, 0x04#8, 0x37#8, 0x01#8, 0x01#8, 0x01#8, 0x32#8]]) := by decide

/-- P2, first half of step 2. -/
theorem test_prepare_sensor_sent :
    field (fun t => (t.sstate, t.phase, t.mem.read? .txbuf 0 7))
        (exec .prepareSensor { runningAt .statusChecked .send with sendAnswers := [.ok] }) =
      some (.statusChecked, .recv, some [0x02#8, 0x00#8, 0x03#8, 0x80#8, 0x02#8, 0x01#8, 0x80#8]) := by decide

/-- V3. -/
theorem test_trigger_capture_frame :
    field (fun t => (t.txlen, t.mem.read? .txbuf 0 7)) (exec .triggerCapture State.reset) =
      some (7#9, some [0x02#8, 0x00#8, 0x03#8, 0x82#8, 0x73#8, 0x01#8, 0xF3#8]) := by decide

/-- R161: the fourth send answered `Ok` requests the image. -/
theorem test_request_image_sent :
    field (fun t => (t.sstate, t.phase)) (exec .requestImage { runningAt .captureTriggered .send with sendAnswers := [.ok] }) =
      some (.imageRequested, .recv) := by decide

/-- A frame out of its turn is refused. -/
theorem test_request_image_out_of_turn :
    refusalOf (exec .requestImage (runningAt .idle .send)) = some .notAtThisStep := by decide

/-- P1: the first acknowledgement. -/
theorem test_ack_response_advances :
    field (fun t => (t.sstate, t.phase, t.rxlen)) (exec (.ackResp (zeros 7)) (runningAt .idle .recv)) =
      some (.statusChecked, .send, 7#14) := by decide

/-- V64: six bytes of data at step 1. -/
theorem test_short_data_fails :
    field (fun t => (t.sstate, t.status.result, t.status.errStep))
        (step { runningAt .idle .recv with recvAnswers := [.data (zeros 6)] }) =
      some (.failed, .err .shortResponse, some .one) := by decide

/-- V31 issued by the host: pixel bytes all zero. -/
theorem test_image_response_unpacked :
    ∃ t, exec (.imgResp [0xDE#8, 0xAD#8, 0xBE#8, 0xEF#8] (zeros 10240) [0xCA#8, 0xFE#8]) State.reset = .next t ∧
      t.mem.read? .imgbuf 0 10240 = some (zeros 10240) := by
  refine ⟨_, (by
    simp only [exec, execImgResp]
    rw [if_neg (by decide), unpackOperand_storeResponse, if_neg (by simp)]), ?_⟩
  rw [State.completeOp_mem, writeRaster_read, unpackImage_complete rfl (zeros_length _) rfl]

/-- The raster is handed over; P7: without one it is refused. -/
theorem test_sensor_frame_handed_over :
    exec (.sensorFrame (zeros 10240)) withRaster = .next { withRaster with observed := some (.raster (zeros 10240)) } := by
  have h : withRaster.raster? = some (zeros 10240) := by
    simp only [withRaster, State.raster?, State.writeRaster_status, State.writeRaster_mem, if_true]
    exact Memory.read?_write_all (zeros_length _)
  simp only [exec, execSensorFrame, (sameRaster_iff _ _).mpr h, if_true]
  rfl

theorem test_sensor_frame_without_a_raster : refusalOf (exec (.sensorFrame []) State.reset) = some .noRaster := by decide

/-- P7: an IMG of bytes that hold no value faults. -/
theorem test_unwritten_response_faults :
    faultOf (exec .img { State.reset with rxlen := 10246#14 }) = some (.noValue .rxbuf) := by decide

/-- R51, U16: a host write outside `IMGBUF` faults, while a CAPTURE runs too; R26: inside it there is nothing to write. -/
theorem test_host_write_of_the_raster :
    faultOf (step { runningAt .idle .send with host := [.write (.buffer .imgbuf 10240 [0x81#8])] }) =
      some (.outOfBounds .imgbuf) ∧
    field (·.mem) (step (withEvent (.write (.buffer .imgbuf 10239 [0x81#8])))) = some Memory.blank := by decide

/-! ## Witnesses: for every obligation with hypotheses, inputs that meet them, each clause at the bounds of its range -/

/-- A stored response of zeros reads back anywhere inside it. -/
theorem response_read (n j m : Nat) (h : j + m ≤ min n 10246) :
    (withResponse (zeros n)).mem.read? .rxbuf j m = some (zeros m) := by
  rw [withResponse, State.storeResponse_mem, Memory.read?_write_zero _ _ _ _ _ (by
    rw [List.length_take, zeros_length, Space.size_rxbuf]; omega)]
  simp only [zeros, List.take_replicate, List.drop_replicate, Space.size_rxbuf]
  congr 2
  omega

theorem response_rxlen (n : Nat) (h : n ≤ 16383) : (withResponse (zeros n)).rxlen.toNat = n := by
  rw [withResponse, State.storeResponse_rxlen, saturate14_toNat, zeros_length]
  omega

theorem payload_read (n : Nat) (h : n ≤ 255) : (withPayload (zeros n)).mem.read? .pbuf 0 n = some (zeros n) := by
  rw [withPayload, State.presentPayload_mem, take_pbuf (by rw [zeros_length]; exact h)]
  exact Memory.read?_write_all (zeros_length n)

theorem payload_plen (n : Nat) (h : n ≤ 511) : (withPayload (zeros n)).plen.toNat = n := by
  rw [withPayload, State.presentPayload_plen, saturate9_toNat, zeros_length]
  omega

theorem raster_read : withRaster.mem.read? .imgbuf 0 10240 = some (zeros 10240) := by
  rw [withRaster, State.writeRaster_mem]
  exact Memory.read?_write_all (zeros_length _)

theorem witness_EncodeOfDecodeIsTheWord :
    decode .op [0x02#8] = .ok .img ∧ decode .cf [0x02#8, 0x00#8, 0x01#8, 0x01#8, 0x00#8] = .ok (.cmdFrame [0x01#8]) ∧
    decode .ar (zeros 7) = .ok (.ackResp (zeros 7)) ∧ decode .sf (zeros 10240) = .ok (.sensorFrame (zeros 10240)) :=
  ⟨by decide, by decide, by decide, test_decode_sensor_frame⟩

theorem witness_WellFormedFramesAreEncFrames :
    encodeCommand [0x81#8] = .ok [0x02#8, 0x00#8, 0x01#8, 0x81#8, 0x80#8] ∧
    isCommandFrame [0x02#8, 0x00#8, 0x01#8, 0x81#8, 0x80#8] = true ∧
    isCommandFrame [0x02#8, 0x00#8, 0x00#8, 0x00#8] = false := by decide

theorem witness_EncodeCommandFrameProperty :
    (1 ≤ [0x81#8].length ∧ [0x81#8].length ≤ 255) ∧ (1 ≤ (zeros 255).length ∧ (zeros 255).length ≤ 255) ∧
    encodeCommand [0x81#8] = .ok [0x02#8, 0x00#8, 0x01#8, 0x81#8, 0x80#8] := by simp; decide

theorem witness_EncRejectsExactlyIllegalLengths :
    (zeros 0).length = 0 ∧ 255 < (zeros 256).length ∧ ¬ ((zeros 1).length = 0 ∨ 255 < (zeros 1).length) ∧
    ¬ ((zeros 255).length = 0 ∨ 255 < (zeros 255).length) := by simp

theorem witness_EncCompletesOrRaisesEncodingError :
    State.reset.status.busy = false ∧ 258 + 1 ≤ 259 ∧
    ((withPayload (zeros 1)).plen.toNat = 1 ∧ (withPayload (zeros 1)).mem.read? .pbuf 0 1 = some (zeros 1)) ∧
    ((withPayload (zeros 255)).plen.toNat = 255 ∧ (withPayload (zeros 255)).mem.read? .pbuf 0 255 = some (zeros 255)) ∧
    (withPayload (zeros 0)).plen.toNat = 0 ∧ 255 < (withPayload (zeros 256)).plen.toNat :=
  ⟨rfl, by omega, ⟨payload_plen 1 (by omega), payload_read 1 (by omega)⟩, ⟨payload_plen 255 (by omega), payload_read 255 (by omega)⟩,
    payload_plen 0 (by omega), by rw [payload_plen 256 (by omega)]; omega⟩

/-- The first and last byte of `PBUF`; in strict mode the first and last pixel byte; in lenient mode the only window of
6 bytes, and the last window of the longest response. -/
theorem witness_UnwrittenOperandFaults :
    State.reset.status.busy = false ∧ State.reset.mem.wf ∧
    (({ State.reset with plen := 255#9 } : State).plen.toNat = 255 ∧ State.reset.mem.byte? .pbuf 0 = none ∧
      State.reset.mem.byte? .pbuf 254 = none) ∧
    (({ State.reset with rxlen := 10246#14 } : State).rxlen.toNat = 10246 ∧ State.reset.mem.byte? .rxbuf 4 = none ∧
      4 + 2 * 5119 + 1 < 10246 ∧ 10243 = 4 + 2 * 5119 + 1 ∧ State.reset.mem.byte? .rxbuf 10243 = none) ∧
    (({ State.reset with lenient := true, rxlen := 6#14 } : State).lenient = true ∧
      4 + 2 * 0 + 1 < ({ State.reset with lenient := true, rxlen := 6#14 } : State).rxlen.toNat ∧
      5 = 4 + 2 * 0 + 1 ∧ State.reset.mem.byte? .rxbuf 5 = none) ∧
    4 + 2 * 5119 + 1 < ({ State.reset with lenient := true, rxlen := 16383#14 } : State).rxlen.toNat :=
  ⟨rfl, State.reset_mem_wf, ⟨rfl, rfl, rfl⟩, ⟨rfl, rfl, by omega, rfl, rfl⟩, ⟨rfl, by decide, rfl, rfl⟩, by decide⟩

theorem witness_HostIssuedFrameIsEncOfItsPayload :
    State.reset.status.busy = false ∧ 1 ≤ (zeros 1).length ∧ (zeros 255).length ≤ 255 ∧
    cmdPayload .one = [0x37#8, 0x01#8, 0x01#8, 0x01#8] ∧ cmdPayload .four = [0x81#8] :=
  ⟨rfl, by decide, by rw [zeros_length], rfl, rfl⟩

theorem witness_EncDependsOnItsPayloadAlone :
    (∃ t, exec .enc (withPayload [0x81#8]) = .next t) ∧ (∃ t, exec .enc (withPayload []) = .next t) ∧
    State.reset.status.busy = false ∧ withRaster.status.busy = false :=
  ⟨⟨_, rfl⟩, ⟨_, rfl⟩, rfl, rfl⟩

theorem witness_AckAcceptsExactlySevenBytes :
    (withResponse (zeros 7)).status.busy = false ∧ (withResponse (zeros 7)).rxlen.toNat = 7 ∧
    (withResponse (zeros 6)).rxlen.toNat ≠ 7 ∧ (withResponse (zeros 8)).rxlen.toNat ≠ 7 := by decide

theorem witness_AckVerdictDependsOnLengthAlone :
    State.reset.status.busy = false ∧ (zeros 7).length = [1#8, 2#8, 3#8, 4#8, 5#8, 6#8, 7#8].length := by decide

theorem witness_HostIssuedAckResponseIsAccepted : State.reset.status.busy = false ∧ (zeros 7).length = 7 := by decide

theorem witness_StrictImgCopiesOrRaisesTruncatedFrame :
    (withResponse (zeros 10246)).status.busy = false ∧ (withResponse (zeros 10246)).lenient = false ∧
    (withResponse (zeros 10246)).rxlen.toNat = 10246 ∧
    (withResponse (zeros 10246)).mem.read? .rxbuf 4 10240 = some (zeros 10240) ∧
    (withResponse (zeros 10245)).rxlen.toNat < 10246 ∧ State.reset.rxlen.toNat < 10246 ∧ 10239 + 1 ≤ 10240 :=
  ⟨rfl, rfl, response_rxlen _ (by omega), response_read _ _ _ (by omega), by rw [response_rxlen _ (by omega)]; omega,
    by decide, by omega⟩

theorem witness_OverlongImageResponseIsTruncatedFrameOrCut :
    (withResponse (zeros 10247)).status.busy = false ∧ (withResponse (zeros 10247)).lenient = false ∧
    10246 < (withResponse (zeros 10247)).rxlen.toNat ∧ 10246 < (zeros 10247).length :=
  ⟨rfl, rfl, by rw [response_rxlen _ (by omega)]; omega, by rw [zeros_length]; omega⟩

/-- Lengths 5, 6, 10243, 10244 and 10246: 0, 1, 5119, 5120 and 5120 pixels. -/
theorem witness_LenientImgNeverRaisesAnError :
    ({ withResponse (zeros 6) with lenient := true } : State).status.busy = false ∧
    ({ withResponse (zeros 6) with lenient := true } : State).lenient = true ∧
    ((withResponse (zeros 5)).rxlen.toNat ≤ 5 ∧ (withResponse (zeros 5)).mem.read? .rxbuf 4 (2 * 0) = some (zeros 0)) ∧
    ((withResponse (zeros 6)).rxlen.toNat = 6 ∧ (withResponse (zeros 6)).mem.read? .rxbuf 4 (2 * 1) = some (zeros 2)) ∧
    ((withResponse (zeros 10243)).rxlen.toNat = 10243 ∧
      (withResponse (zeros 10243)).mem.read? .rxbuf 4 (2 * 5119) = some (zeros 10238)) ∧
    ((withResponse (zeros 10244)).rxlen.toNat = 10244 ∧
      (withResponse (zeros 10244)).mem.read? .rxbuf 4 (2 * 5120) = some (zeros 10240)) ∧
    ((withResponse (zeros 10246)).rxlen.toNat = 10246 ∧
      (withResponse (zeros 10246)).mem.read? .rxbuf 4 (2 * 5120) = some (zeros 10240)) :=
  ⟨rfl, rfl, ⟨(response_rxlen 5 (by omega)).le, response_read 5 4 0 (by omega)⟩,
    ⟨response_rxlen 6 (by omega), response_read 6 4 2 (by omega)⟩,
    ⟨response_rxlen 10243 (by omega), response_read 10243 4 10238 (by omega)⟩,
    ⟨response_rxlen 10244 (by omega), response_read 10244 4 10240 (by omega)⟩,
    response_rxlen 10246 (by omega), response_read 10246 4 10240 (by omega)⟩

theorem witness_PixelsAreCopiedUnchanged : (zeros 10246).length = 10246 ∧ 5119 < 5120 := by simp

/-- The last pixel: its window exists in 10244 bytes and not in 10243. -/
theorem witness_LenientPixelIsCopiedOrZero :
    4 + 2 * 5119 + 1 ≤ (zeros 10244).length - 1 ∧ ¬ 4 + 2 * 5119 + 1 ≤ (zeros 10243).length - 1 ∧
    ¬ 4 + 2 * 0 + 1 ≤ (zeros 0).length - 1 := by simp

theorem witness_HeaderAndTrailerAreIgnored :
    ([0xDE#8] ++ zeros 10245).length = (zeros 10245 ++ [0xFE#8]).length ∧
    ([0xDE#8] ++ zeros 10245) ≠ (zeros 10245 ++ [0xFE#8]) ∧
    ∀ k, 4 ≤ k → k ≠ 10244 → k ≠ 10245 → ([0xDE#8] ++ zeros 10245)[k]? = (zeros 10245 ++ [0xFE#8])[k]? := by
  refine ⟨by simp, fun h => ?_, fun k h4 h44 h45 => ?_⟩
  · have := congrArg (fun l : List Byte => l[0]?) h
    rw [List.getElem?_append_left (by decide), List.getElem?_append_left (by rw [zeros_length]; omega),
      zeros_get (by omega)] at this
    exact absurd this (by decide)
  · rw [List.getElem?_append_right (by simp; omega)]
    rcases Nat.lt_or_ge k 10245 with hk | hk
    · rw [List.getElem?_append_left (by simpa using hk)]
      rw [zeros_get hk, List.length_singleton, zeros_get (by omega)]
    · rw [List.getElem?_append_right (by simpa using hk)]
      rw [List.getElem?_eq_none (by simp; omega), List.getElem?_eq_none (by simp; omega)]

/-- Seven bytes in lenient mode, and a buffer that differs in its first byte; and the same with nothing written. -/
theorem witness_ImgReadsOnlyThePixelBytesPresent :
    (withResponse (zeros 7)).mem.wf ∧ Buffer.wf 10246 ((0, 0xDE#8) :: cellsFrom 1 (zeros 6)) ∧
    (∀ a, 4 ≤ a → a ≤ 10243 → a < (withResponse (zeros 7)).rxlen.toNat →
      Buffer.byte? ((0, 0xDE#8) :: cellsFrom 1 (zeros 6)) a = (withResponse (zeros 7)).mem.byte? .rxbuf a) ∧
    (∃ t, exec .img { withResponse (zeros 7) with lenient := true } = .next t) ∧
    Buffer.wf 10246 [(0, 0xDE#8)] ∧ Buffer.byte? [(0, 0xDE#8)] 4 = State.reset.mem.byte? .rxbuf 4 ∧
    ∃ e, exec .img { State.reset with lenient := true, rxlen := 6#14 } = .fault e := by
  refine ⟨by decide, by decide, fun a h1 _ h2 => ?_, ⟨_, rfl⟩, by decide, rfl, _, rfl⟩
  have h7 : (withResponse (zeros 7)).rxlen.toNat = 7 := by decide
  rcases (by omega : a = 4 ∨ a = 5 ∨ a = 6) with rfl | rfl | rfl <;> rfl

theorem witness_HostIssuedImageResponseIsUnpacked :
    State.reset.status.busy = false ∧ (zeros 4).length = 4 ∧ (zeros 10240).length = 10240 ∧ (zeros 2).length = 2 := by
  simp [State.reset, Status.blank]

theorem witness_SensorFrameIsHandedOverWhenValid :
    (withRaster.status.busy = false ∧ withRaster.status.imgValid = true ∧
      withRaster.mem.read? .imgbuf 0 10240 = some (zeros 10240)) ∧
    withRaster.mem.read? .imgbuf 0 10240 ≠ some [] ∧ State.reset.status.imgValid = false ∧
    (runningAt .idle .send).status.busy = true := by
  refine ⟨⟨rfl, rfl, raster_read⟩, fun h => ?_, rfl, rfl⟩
  rw [raster_read] at h
  have := congrArg List.length (Option.some.inj h)
  simp at this

theorem witness_PixelsAreBigEndianRowMajor :
    (zeros 10240)[2 * (64 * 79 + 63)]? = some 0#8 ∧ (zeros 10240)[2 * (64 * 79 + 63) + 1]? = some 0#8 ∧
    (zeros 10240)[2 * (64 * 0 + 0)]? = some 0#8 :=
  ⟨zeros_get (by omega), zeros_get (by omega), zeros_get (by omega)⟩

theorem witness_HostStartedOperationsAreTheCodec : State.reset.status.busy = false ∧ withRaster.status.busy = false := by
  decide

theorem witness_CaptureStartsAFreshSession :
    ({ State.reset with sstate := .failed } : State).status.busy = false ∧
    ({ State.reset with sstate := .complete } : State).status.busy = false := by decide

theorem witness_FixedFrameIsSentAtItsStep :
    ((SState.idle, CaptureStep.one, SState.idle) ∈ sendRows ∧ (runningAt .idle .send).status.busy = true ∧
      (runningAt .idle .send).phase = .send ∧ (runningAt .idle .send).sstate = .idle ∧
      ({ runningAt .idle .send with sendAnswers := [.ok] } : State).sendAnswers = [.ok]) ∧
    ((SState.captureTriggered, CaptureStep.four, SState.imageRequested) ∈ sendRows ∧
      (runningAt .captureTriggered .send).sstate = .captureTriggered ∧
      ({ runningAt .captureTriggered .send with sendAnswers := [.error] } : State).sendAnswers = [.error]) := by decide

theorem witness_AckResponseAdvancesTheSession :
    ((SState.idle, CaptureStep.one, SState.statusChecked) ∈ ackRows ∧ (runningAt .idle .recv).status.busy = true ∧
      (runningAt .idle .recv).phase = .recv ∧ (runningAt .idle .recv).sstate = .idle) ∧
    ((SState.sensorPrepared, CaptureStep.three, SState.captureTriggered) ∈ ackRows ∧
      (runningAt .sensorPrepared .recv).sstate = .sensorPrepared) ∧ (zeros 7).length = 7 := by decide

theorem witness_ImageResponseCompletesTheCapture :
    (runningAt .imageRequested .recv).status.busy = true ∧ (runningAt .imageRequested .recv).phase = .recv ∧
    (runningAt .imageRequested .recv).sstate = .imageRequested ∧
    (zeros 4).length = 4 ∧ (zeros 10240).length = 10240 ∧ (zeros 2).length = 2 := by
  refine ⟨rfl, rfl, rfl, ?_⟩; simp

/-- A host that waits, a row of each kind, both lengths of an acknowledgement, both verdicts on an image, and both
states from which there is no row. -/
theorem witness_CaptureFollowsItsTransitionTable :
    (runningAt .idle .send).HostWaits ∧ (runningAt .imageRequested .recv).HostWaits ∧
    ((SState.statusChecked, CaptureStep.two, SState.statusChecked) ∈ sendRows ∧
      (runningAt .statusChecked .send).status.busy = true ∧ (runningAt .statusChecked .send).phase = .send) ∧
    ((SState.statusChecked, CaptureStep.two) ∈ recvRows ∧
      (SState.statusChecked, CaptureStep.two, SState.sensorPrepared) ∈ ackRows ∧
      (runningAt .statusChecked .recv).status.busy = true ∧ (runningAt .statusChecked .recv).phase = .recv ∧
      (zeros 7).length = 7 ∧ (zeros 6).length ≠ 7) ∧
    ((SState.imageRequested, CaptureStep.four) ∈ recvRows ∧
      decodeImageResponse false (zeros 10246) = .ok (unpackImage (zeros 10246)) ∧
      decodeImageResponse false (zeros 10245) = .error .truncatedFrame ∧
      decodeImageResponse true (zeros 10245) = .ok (unpackImage (zeros 10245))) ∧
    ({ State.reset with sstate := .complete } : State).HostWaits ∧ (runningAt .failed .send).HostWaits := by
  refine ⟨.inl rfl, .inl rfl, by decide, by decide, ⟨by decide, ?_, ?_, ?_⟩, .inl rfl, .inl rfl⟩ <;>
    simp [decodeImageResponse_eq]

theorem witness_UnansweredCallLeavesTheMachine :
    (runningAt .idle .send).HostWaits ∧ (runningAt .idle .send).status.busy = true ∧
    ((runningAt .idle .send).phase = .send ∧ (runningAt .idle .send).sendAnswers = []) ∧
    (runningAt .imageRequested .recv).phase = .recv ∧ (runningAt .imageRequested .recv).recvAnswers = [] :=
  ⟨.inl rfl, rfl, ⟨rfl, rfl⟩, rfl, rfl⟩

/-- `Timeout` at step 1 while the host waits, and `Error` at step 4 on a turn the host gives. -/
theorem witness_FailedReceiveWithoutDataChangesNoBuffer :
    (({ runningAt .idle .recv with recvAnswers := [.timeout] } : State).SequencerMoves [] ∧
      (runningAt .idle .recv).status.busy = true ∧ (runningAt .idle .recv).phase = .recv ∧
      (SState.idle, CaptureStep.one) ∈ recvRows ∧ (runningAt .idle .recv).sstate = .idle) ∧
    (({ runningAt .imageRequested .recv with recvAnswers := [.error], host := [.turn] } : State).SequencerMoves [] ∧
      (runningAt .imageRequested .recv).status.busy = true ∧ (runningAt .imageRequested .recv).phase = .recv ∧
      (SState.imageRequested, CaptureStep.four) ∈ recvRows ∧
      (runningAt .imageRequested .recv).sstate = .imageRequested) :=
  ⟨⟨.inl ⟨.inl rfl, rfl⟩, rfl, rfl, by decide, rfl⟩, .inr rfl, rfl, rfl, by decide, rfl⟩

/-- Six, eight and no bytes at step 1; 10245 and 10247 bytes at step 4, in both modes. -/
theorem witness_DataOfAnotherLengthIsStoredAndJudged :
    (({ runningAt .idle .recv with recvAnswers := [.data (zeros 6)] } : State).SequencerMoves [] ∧
      (runningAt .idle .recv).status.busy = true ∧ (runningAt .idle .recv).phase = .recv ∧
      (SState.idle, CaptureStep.one) ∈ recvRows ∧ (runningAt .idle .recv).sstate = .idle ∧
      CaptureStep.one ≠ .four ∧ (zeros 6).length ≠ 7 ∧ (zeros 8).length ≠ 7 ∧ (zeros 0).length ≠ 7) ∧
    (({ runningAt .imageRequested .recv with recvAnswers := [.data (zeros 10245)], host := [.turn] } : State).SequencerMoves
        [] ∧
      (runningAt .imageRequested .recv).status.busy = true ∧ (runningAt .imageRequested .recv).phase = .recv ∧
      (SState.imageRequested, CaptureStep.four) ∈ recvRows ∧
      (runningAt .imageRequested .recv).sstate = .imageRequested ∧
      (zeros 10245).length ≠ 10246 ∧ (zeros 10247).length ≠ 10246 ∧
      (runningAt .imageRequested .recv).lenient = false ∧
      ({ runningAt .imageRequested .recv with lenient := true } : State).lenient = true) := by
  refine ⟨⟨.inl ⟨.inl rfl, rfl⟩, by decide⟩, .inr rfl, rfl, rfl, by decide, rfl, ?_, ?_, rfl, rfl⟩ <;> simp

/-- A last window that exists (10244 bytes), one that does not (10243), no data at all, and a wrong length at step 1. -/
theorem witness_LenientModeReachesOnlyTheImageStep :
    ({ runningAt .imageRequested .recv with lenient := true, recvAnswers := [.data (zeros 10244)] } : State).HostWaits ∧
    (runningAt .imageRequested .recv).status.busy = true ∧ (runningAt .imageRequested .recv).phase = .recv ∧
    (runningAt .imageRequested .recv).sstate = .imageRequested ∧
    4 + 2 * 5119 + 1 < (zeros 10244).length ∧ (zeros 10243).length ≤ 4 + 2 * 5119 + 1 ∧
    (zeros 0).length ≤ 4 + 2 * 0 + 1 ∧
    ((runningAt .imageRequested .recv).lenient = false ∧ (zeros 10245).length ≠ 10246 ∧ (zeros 10246).length = 10246) ∧
    (SState.idle, CaptureStep.one) ∈ recvRows ∧ CaptureStep.one ≠ .four ∧ (zeros 6).length ≠ 7 := by
  refine ⟨.inl rfl, rfl, rfl, rfl, ?_, ?_, ?_, ⟨rfl, ?_, ?_⟩, by decide, by decide, by decide⟩ <;> simp

/-- V60 with a response of zeros, and V63. -/
theorem witness_CaptureMatchesItsPseudocode :
    (withEvent (.issue .op [0x03#8])).status.busy = false ∧
    captureSpec false 1000#32 [.ok, .ok, .ok, .ok]
        [.data (zeros 7), .data (zeros 7), .data (zeros 7), .data (zeros 10246)] =
      some (.sensorFrame (unpackImage (zeros 10246)), fullTrace 1000#32) ∧
    captureSpec false 1000#32 [.ok] [.timeout] = some (.captureError .timeout .one, (fullTrace 1000#32).take 2) := by
  refine ⟨rfl, ?_, by decide⟩
  simp [captureSpec, captureFrom, decodeAcknowledgement_eq, decodeImageResponse_eq, fullTrace, expectedLen]

/-- A running session at the first position is coherent, whatever the transport will answer. -/
theorem running_coherent (sa : List SendOutcome) (ra : List RecvOutcome) :
    ({ runningAt .idle .send with sendAnswers := sa, recvAnswers := ra } : State).Coherent where
  memory := Memory.wf_blank
  frame := fun h => by cases h
  raster := fun h => by cases h
  running := fun _ => ⟨rfl, .inl ⟨rfl, rfl⟩⟩
  resting := fun h => by cases h
  failedStep := fun k h => by cases h
  failedOp := fun _ => ⟨(fun h => by cases h), (fun h => by cases h)⟩

theorem witness_CaptureEndsWithinEightCalls :
    ∃ s : State, s.Coherent ∧ s.HostWaits ∧ s.status.busy = true ∧ 4 ≤ s.sendAnswers.length ∧ 4 ≤ s.recvAnswers.length :=
  ⟨{ runningAt .idle .send with
      sendAnswers := [.ok, .ok, .ok, .error]
      recvAnswers := [.data (zeros 7), .data (zeros 7), .data (zeros 7), .timeout] },
    running_coherent _ _, .inl rfl, rfl, by decide, by decide⟩

/-- A session that fails at its first send, and one that completes with the image. -/
theorem witness_NoPartialSuccess :
    (∃ t, step { runningAt .idle .send with sendAnswers := [.error] } = .next t ∧ t.status.busy = false) ∧
    ∃ t, step { runningAt .imageRequested .recv with recvAnswers := [.data (zeros 10246)] } = .next t ∧
      t.status.busy = false := by
  refine ⟨⟨_, rfl, rfl⟩, _, (by
    rw [step_receives (k := .four) (.inl rfl) rfl rfl rfl rfl, receiveData_image, if_neg (by simp)]), rfl⟩

theorem witness_StepKeepsTheStateCoherent :
    ∃ s t : State, s.Coherent ∧ step s = .next t ∧ t ≠ s :=
  ⟨{ runningAt .idle .send with sendAnswers := [.error], recvAnswers := [] }, _, running_coherent _ _, rfl, by decide⟩

theorem witness_StepKeepsTheTraceInitial : ∃ s t : State, s.TraceOk ∧ step s = .next t ∧ t.trace ≠ s.trace :=
  ⟨{ runningAt .idle .send with sendAnswers := [.ok] }, _,
    ⟨⟨1000#32, List.nil_prefix⟩, fun _ => ⟨.inl ⟨rfl, rfl⟩, rfl⟩⟩, rfl, by decide⟩

/-- A start of a CAPTURE after a failed one, whose trace is emptied; a reset; and an answer that stays, with no session. -/
theorem witness_NoCallIsMadeWhileNothingRuns :
    (∃ t, step { withEvent (.issue .op [0x03#8]) with sstate := .failed, trace := [.recv 7 1000#32] } = .next t ∧
      t.trace = []) ∧
    (∃ t, step { withEvent .reset with trace := [.recv 7 1000#32] } = .next t ∧ t.trace = []) ∧
    ∃ t, step { State.reset with sendAnswers := [.ok] } = .next t ∧ t.sendAnswers = [.ok] :=
  ⟨⟨_, rfl, rfl⟩, ⟨_, rfl, rfl⟩, _, rfl, rfl⟩

theorem witness_StepRunsTheIssuedWord :
    (withEvent (.issue .cf [0x02#8, 0x00#8, 0x01#8, 0x81#8, 0x80#8])).host =
      [.issue .cf [0x02#8, 0x00#8, 0x01#8, 0x81#8, 0x80#8]] ∧
    (withEvent (.issue .cf [0x02#8, 0x00#8, 0x01#8, 0x81#8, 0x80#8])).status.busy = false ∧
    decode .cf [0x02#8, 0x00#8, 0x01#8, 0x81#8, 0x80#8] = .ok .requestImage := by decide

theorem witness_StepRunsTheWordOnTheWire :
    ((runningAt .idle .send).HostWaits ∧ (runningAt .idle .send).status.busy = true ∧
      (SState.idle, CaptureStep.one, SState.idle) ∈ sendRows ∧
      ({ runningAt .idle .send with sendAnswers := [.ok] } : State).sendAnswers ≠ []) ∧
    ({ runningAt .idle .send with host := [.turn, .read (.reg .status)] } : State).host =
      .turn :: [.read (.reg .status)] ∧
    ((SState.idle, CaptureStep.one) ∈ recvRows ∧ decode .ar (zeros 7) = .ok (.ackResp (zeros 7))) ∧
    (({ withRaster with host := [.handOver] } : State).host = [.handOver] ∧ withRaster.status.busy = false ∧
      withRaster.status.imgValid = true ∧ withRaster.mem.read? .imgbuf 0 10240 = some (zeros 10240)) :=
  ⟨⟨.inl rfl, rfl, by decide, by decide⟩, rfl, by decide, rfl, rfl, rfl, raster_read⟩

theorem witness_HostIsRefusedWhileBusy :
    ({ runningAt .idle .send with host := [.issue .op [0x00#8]] } : State).status.busy = true ∧
    ({ runningAt .idle .send with host := [.issue .op [0x00#8]] } : State).host = [.issue .op [0x00#8]] ∧
    ({ runningAt .idle .send with host := [.write (.buffer .pbuf 0 [])] } : State).host = [.write (.buffer .pbuf 0 [])] ∧
    ({ runningAt .idle .send with host := [.read (.reg .txlen)] } : State).host = [.read (.reg .txlen)] ∧
    ({ runningAt .idle .send with host := [.handOver] } : State).host = [.handOver] ∧
    ({ runningAt .idle .send with host := [.read (.buffer .rxbuf 10246 1)] } : State).host =
      [.read (.buffer .rxbuf 10246 1)] := by decide

/-- A frame whose step is another; a frame of the right step at the receive; no receive at a send position, and none at a
receive position without a row. -/
theorem witness_FramesAndResponsesOutOfTurnAreRefused :
    (runningAt .idle .send).status.busy = true ∧
    (¬ ((runningAt .idle .send).phase = .send ∧ ∃ q', ((runningAt .idle .send).sstate, CaptureStep.two, q') ∈ sendRows)) ∧
    (¬ ((runningAt .idle .recv).phase = .send ∧ ∃ q', ((runningAt .idle .recv).sstate, CaptureStep.one, q') ∈ sendRows)) ∧
    (¬ ((runningAt .idle .send).phase = .recv ∧ ∃ k, ((runningAt .idle .send).sstate, k) ∈ recvRows)) ∧
    (¬ ((runningAt .captureTriggered .recv).phase = .recv ∧
      ∃ k, ((runningAt .captureTriggered .recv).sstate, k) ∈ recvRows)) := by
  refine ⟨rfl, ?_, ?_, ?_, ?_⟩ <;> simp [runningAt, sendRows, recvRows]

theorem witness_OtherTransportUseIsRefusedDuringCapture :
    ({ runningAt .idle .send with host := [.useTransport] } : State).host = [.useTransport] ∧
    (runningAt .idle .send).status.busy = true ∧ (withEvent .useTransport).host = [.useTransport] ∧
    (withEvent .useTransport).status.busy = false := by decide

/-- Reads that end exactly at the last byte of each buffer. -/
theorem witness_ResetLeavesAFreshSession :
    258 + 1 ≤ 259 ∧ 10239 + 1 ≤ 10240 ∧ (1 ≤ 1 ∧ 254 + 1 ≤ 255) ∧ (1 ≤ 1 ∧ 10245 + 1 ≤ 10246) := by decide

/-- Each of the three clauses: while a CAPTURE runs, after an operation has ended, at launch. -/
theorem witness_ResetActsOnlyAtLaunch :
    (({ runningAt .idle .send with host := [.reset] } : State).host = [.reset] ∧
      (runningAt .idle .send).status.busy = true) ∧
    (({ withRaster with host := [.reset], status := withRaster.status.completed } : State).status.busy = false ∧
      ({ withRaster with host := [.reset], status := withRaster.status.completed } : State).status.result ≠ .none) ∧
    ((withEvent .reset).host = [.reset] ∧ (withEvent .reset).status.busy = false ∧
      (withEvent .reset).status.result = .none) := by decide

/-- The session state changes: in a running CAPTURE, at the start of one, and by reset. -/
theorem witness_SessionStateChangesOnlyByCapture :
    (∃ t, step { runningAt .idle .send with sendAnswers := [.error] } = .next t ∧ t.sstate ≠ .idle) ∧
    (∃ t, step { withEvent (.issue .op [0x03#8]) with sstate := .failed } = .next t ∧ t.sstate ≠ .failed) ∧
    ∃ t, step { withEvent .reset with sstate := .complete } = .next t ∧ t.sstate ≠ .complete :=
  ⟨⟨_, rfl, by decide⟩, ⟨_, rfl, by decide⟩, _, rfl, by decide⟩

theorem witness_ConfigurationChangesOnlyByTheHost :
    (∃ t, step (withEvent (.write (.cfg 1#32))) = .next t ∧ t.lenient ≠ false) ∧
    (∃ t, step (withEvent (.write (.timeout 250#32))) = .next t ∧ t.timeout ≠ 1000#32) ∧
    ∃ t, step { withEvent .reset with lenient := true } = .next t ∧ t.lenient ≠ true :=
  ⟨⟨_, rfl, by decide⟩, ⟨_, rfl, by decide⟩, _, rfl, by decide⟩

/-- Writes that end exactly at the last byte of each buffer, and one byte past it; a write while a CAPTURE runs. -/
theorem witness_HostWritesTakeEffect :
    (withEvent (.write (.plen 512))).host = [.write (.plen 512)] ∧ (withEvent (.write (.plen 512))).status.busy = false ∧
    ({ runningAt .idle .send with host := [.write (.status 0#32)] } : State).host = [.write (.status 0#32)] ∧
    (runningAt .idle .send).status.busy = true ∧
    254 + [0x81#8].length ≤ Space.pbuf.size ∧ 10245 + [0x81#8].length ≤ Space.rxbuf.size ∧
    258 + [0x81#8].length ≤ Space.txbuf.size ∧ 10239 + [0x81#8].length ≤ Space.imgbuf.size ∧
    Space.pbuf.size < 255 + [0x81#8].length ∧ Space.rxbuf.size < 10246 + [0x81#8].length ∧
    Space.txbuf.size < 259 + [0x81#8].length ∧ Space.imgbuf.size < 10240 + [0x81#8].length := by decide

theorem witness_HostReadsChangeNothing :
    (∃ t, step (withEvent (.read (.reg .status))) = .next t) ∧ (∃ t, step (withEvent (.read (.reg .cmd))) = .next t) ∧
    ∃ t, step { withPayload [0x81#8] with host := [.read (.buffer .pbuf 0 1)] } = .next t :=
  ⟨⟨_, rfl⟩, ⟨_, rfl⟩, _, rfl⟩

/-- The whole frame of `ENC 81`, and the last byte of a raster. -/
theorem witness_HostReadsReturnTheRegisters :
    (withEvent (.read (.reg .status))).host = [.read (.reg .status)] ∧
    (((withPayload [0x81#8]).writeFrame [0x81#8]).status.busy = false ∧
      ((withPayload [0x81#8]).writeFrame [0x81#8]).status.txValid = true ∧
      ((withPayload [0x81#8]).writeFrame [0x81#8]).txlen.toNat = 5 ∧
      ((withPayload [0x81#8]).writeFrame [0x81#8]).mem.read? .txbuf 0 5 =
        some [0x02#8, 0x00#8, 0x01#8, 0x81#8, 0x80#8]) ∧
    (withRaster.status.busy = false ∧ withRaster.status.imgValid = true ∧
      withRaster.mem.read? .imgbuf 10239 1 = some (zeros 1)) ∧
    (254 + 1 ≤ Space.pbuf.size ∧ (withPayload [0x81#8]).mem.read? .pbuf 0 1 = some [0x81#8]) := by
  refine ⟨rfl, by decide, ⟨rfl, rfl, ?_⟩, by decide, rfl⟩
  rw [withRaster, State.writeRaster_mem, Memory.read?_write_zero _ _ _ _ _ (by rw [zeros_length])]
  simp only [zeros, List.take_replicate, List.drop_replicate]
  rfl

theorem witness_AbsentValuesAreNotRead :
    State.reset.status.busy = false ∧ State.reset.status.txValid = false ∧ State.reset.status.imgValid = false ∧
    State.reset.mem.wf ∧ State.reset.mem.byte? .pbuf 254 = none ∧ State.reset.mem.byte? .rxbuf 10245 = none ∧
    (withEvent (.read (.buffer .pbuf 254 1))).host = [.read (.buffer .pbuf 254 1)] :=
  ⟨rfl, rfl, rfl, State.reset_mem_wf, rfl, rfl, rfl⟩

theorem witness_ReadOfCmdReturnsSomeValue : (withEvent (.read (.reg .cmd))).host = [.read (.reg .cmd)] := rfl

theorem witness_BufferWritesReadBackAndAreDisjoint :
    Memory.blank.wf ∧ 254 + [0x81#8].length ≤ Space.pbuf.size ∧ 258 + [0x81#8].length ≤ Space.txbuf.size ∧
    10245 + [0x81#8].length ≤ Space.rxbuf.size ∧ 10239 + [0x81#8].length ≤ Space.imgbuf.size :=
  ⟨Memory.wf_blank, by decide⟩

end Sys2Proof.Tests
end

section
/-! PROOFS. The raster of a complete response is a copy of its pixel bytes (30_encoding.md R88; 42_image.md R133). -/

namespace Sys2Proof.Machine

/-- A response of 10246 bytes is accepted in either mode, whatever its bytes are (R131, R133). -/
theorem decodeImageResponse_of_length_eq (lenient : Bool) {r : List Byte} (h : r.length = 10246) :
    decodeImageResponse lenient r = .ok (unpackImage r) := by
  rw [decodeImageResponse_eq, if_neg (fun hr => hr.2 h)]

/-- Settles O17: the length alone decides acceptance, and in 10246 bytes the window of each of the 5120 pixels exists, so
that `unpackImage_pixel` copies it. -/
theorem pixelsAreCopiedUnchanged : Obligations.PixelsAreCopiedUnchanged := by
  intro lenient r h
  refine ⟨unpackImage r, decodeImageResponse_of_length_eq lenient h, unpackImage_length r, fun i hi => ?_⟩
  have hwindow : 4 + 2 * i + 1 < r.length := by omega
  exact (unpackImage_pixel r hi).1 hwindow

end Sys2Proof.Machine
end

section
/-! PROOFS. ENC is total, idempotent, and depends on its payload alone (40_encode.md R113, R115). -/

namespace Sys2Proof.Machine

/-! ## The pure encoder -/

/-- The payload stands in its frame from index 3 on (R81). -/
theorem frameOf_getElem?_payload {p : List Byte} {k : Nat} (h : k < p.length) : (frameOf p)[3 + k]? = p[k]? := by
  have hbody : 3 + k < ([Config.hdr0, Config.hdr1, BitVec.ofNat 8 p.length] ++ p).length := by simp; omega
  rw [frameOf, List.getElem?_append_left hbody, List.getElem?_append_right (by simp)]
  simp

theorem encodeCommand_ok {p : List Byte} (h : payloadOk p = true) : encodeCommand p = .ok (frameOf p) := by
  rw [encodeCommand_eq, if_pos h]

theorem encodeCommand_eq_error_iff (p : List Byte) :
    encodeCommand p = .error .encodingError ↔ payloadOk p = false := by
  rw [encodeCommand_eq]
  cases payloadOk p <;> simp

theorem payloadOk_eq_false_iff (p : List Byte) : payloadOk p = false ↔ p.length = 0 ∨ 255 < p.length := by
  rw [← Bool.not_eq_true, payloadOk_iff]
  omega

/-- Settles O6: the length check `payloadOk` alone decides between the error and the frame. -/
theorem encRejectsExactlyIllegalLengths : Obligations.EncRejectsExactlyIllegalLengths := by
  intro p
  rw [encodeCommand_eq_error_iff, ← payloadOk_eq_false_iff, Bool.not_eq_false]
  exact ⟨Iff.rfl, fun hok => ⟨frameOf p, encodeCommand_ok hok, fun _ hk => frameOf_getElem?_payload hk⟩⟩

/-! ## ENC in the register view -/

theorem exec_enc_idle {s : State} (h : s.status.busy = false) : exec .enc s = encodeOperand s := by
  simp [exec, execEnc, h]

/-- Where ENC answers a next state, nothing was running (R228). -/
theorem idle_of_exec_enc_next {s t : State} (h : exec .enc s = .next t) : s.status.busy = false := by
  cases hb : s.status.busy with
  | false => rfl
  | true => simp [exec, execEnc, hb] at h

theorem Memory.write_zero_again (m : Memory) (sp : Space) (vs : List Byte) :
    (m.write sp 0 vs).write sp 0 vs = m.write sp 0 vs := by
  cases sp <;> simp only [Memory.write, Buffer.write_zero_again]

theorem encodeOperand_bad {s : State} (h : s.payloadLengthOk = false) :
    encodeOperand s = .next ((s.latch .enc).raiseError .enc .encodingError none) := by
  simp only [encodeOperand, h, Bool.false_eq_true, if_false]

theorem payloadLengthOk_encoded (s : State) (p : List Byte) :
    ((s.latch .enc).writeFrame p).completeOp.payloadLengthOk = s.payloadLengthOk := rfl

/-- ENC writes `TXBUF` alone (R22), so the payload it has read is still there. -/
theorem payload?_encoded (s : State) (p : List Byte) :
    ((s.latch .enc).writeFrame p).completeOp.payload? = s.payload? :=
  Memory.read?_write_other s.mem (sp := .txbuf) (sq := .pbuf) 0 (frameOf p) 0 s.plen.toNat (by decide)

/-- Completing ENC of the same payload again changes nothing. -/
theorem encoded_again (s : State) (p : List Byte) :
    (((((s.latch .enc).writeFrame p).completeOp).latch .enc).writeFrame p).completeOp =
      ((s.latch .enc).writeFrame p).completeOp := by
  simp only [State.latch, State.writeFrame, State.completeOp, Status.completed, Memory.write_zero_again]

/-- A second ENC finds nothing to change: after a frame the same payload is read and encoded again, after an error the
same length is rejected again. -/
theorem encodeOperand_idempotent {s t : State} (h : encodeOperand s = .next t) : encodeOperand t = .next t := by
  rcases encodeOperand_next h with ⟨hok, p, hp, rfl⟩ | ⟨hbad, rfl⟩
  · have hok' := (payloadLengthOk_encoded s p).trans hok
    have hp' := (payload?_encoded s p).trans hp
    rw [encodeOperand_ok hok' hp', encoded_again]
  · exact encodeOperand_bad hbad

/-- ENC leaves the FCE not busy (R110, R197). -/
theorem encodeOperand_next_idle {s t : State} (h : encodeOperand s = .next t) : t.status.busy = false := by
  rcases encodeOperand_next h with ⟨-, p, -, rfl⟩ | ⟨-, rfl⟩
  · rfl
  · rfl

theorem exec_enc_idempotent {s t : State} (h : exec .enc s = .next t) : exec .enc t = .next t := by
  rw [exec_enc_idle (idle_of_exec_enc_next h)] at h
  rw [exec_enc_idle (encodeOperand_next_idle h)]
  exact encodeOperand_idempotent h

theorem exec_enc_present {s : State} (h : s.status.busy = false) (p : List Byte) :
    exec .enc (s.presentPayload p) = encodePayload p s :=
  exec_enc_idle h

/-- After ENC of a payload of a legal length, `TXBUF[0 .. TXLEN)` is its frame (R110). -/
theorem read?_encoded_frame {p : List Byte} (h : p.length ≤ 255) (s : State) :
    (s.writeFrame p).mem.read? .txbuf 0 (s.writeFrame p).txlen.toNat = some (frameOf p) := by
  rw [State.writeFrame_txlen, txlen_toNat h, State.writeFrame_mem]
  exact Memory.read?_write_all (frameOf_length p)

/-- Settles O10: a second ENC is a fixed point; and whatever the state the payload is presented in, its length decides
between the error and the frame, which is `frameOf p` and holds nothing of the state. -/
theorem encDependsOnItsPayloadAlone : Obligations.EncDependsOnItsPayloadAlone := by
  refine ⟨fun _ _ => exec_enc_idempotent, fun s u p hs hu => ?_⟩
  rw [exec_enc_present hs, exec_enc_present hu]
  cases hok : payloadOk p with
  | true =>
    have hlen := ((payloadOk_iff p).mp hok).2
    refine ⟨_, _, encodePayload_ok hok s, encodePayload_ok hok u, rfl, rfl, rfl, fun _ => ⟨rfl, ?_⟩⟩
    exact (read?_encoded_frame hlen _).trans (read?_encoded_frame hlen _).symm
  | false =>
    refine ⟨_, _, encodePayload_bad hok s, encodePayload_bad hok u, rfl, rfl, rfl, fun hvalid => ?_⟩
    cases hvalid

end Sys2Proof.Machine
end

section
/-! PROOFS. The rows of CAPTURE's transition table, and how a CAPTURE ends (43_capture.md R161, R166). -/

namespace Sys2Proof.Machine

/-! ## The two ends of a session -/

/-- The session is over and has yielded the raster `out` (R160, R171): the counterpart of `State.FailedWith`. -/
def State.CompletedWith (t : State) (out : List Byte) : Prop :=
  t.sstate = .complete ∧ t.status.busy = false ∧ t.status.result = .ok ∧ t.status.imgValid = true ∧
  t.mem.read? .imgbuf 0 10240 = some out

theorem failStep_failedWith (e : FceError) (k : CaptureStep) (s : State) : (s.failStep e k).FailedWith e k :=
  ⟨rfl, rfl, rfl, rfl, rfl⟩

theorem recvFailed_failedWith (e : FceError) (k : CaptureStep) (s : State) : (s.recvFailed e k).FailedWith e k :=
  failStep_failedWith e k (s.callRecv k)

theorem completeCapture_completedWith (r : List Byte) (s : State) :
    ((s.writeRaster (unpackImage r)).completeCapture).CompletedWith (unpackImage r) :=
  ⟨rfl, rfl, rfl, rfl, writeRaster_read s r⟩

/-! ## The receive half of a step on data, row by row -/

/-- The pure decoder of an image response fails with `TruncatedFrame` or yields the unpacked raster. -/
theorem decodeImageResponse_cases (lenient : Bool) (r : List Byte) :
    decodeImageResponse lenient r = .error .truncatedFrame ∨ decodeImageResponse lenient r = .ok (unpackImage r) := by
  rw [decodeImageResponse_eq]
  split
  · exact .inl rfl
  · exact .inr rfl

theorem receiveData_advances {k : CaptureStep} {r : List Byte} {s t : State} (hk : k ≠ .four) (hr : r.length = 7)
    (ht : receiveData k r s = .next t) : t.sstate = nextState k ∧ t.phase = .send ∧ t.status = s.status := by
  rw [receiveData_ack hk, if_pos hr] at ht
  cases ht
  exact ⟨rfl, rfl, rfl⟩

theorem receiveData_shortResponse {k : CaptureStep} {r : List Byte} {s t : State} (hk : k ≠ .four)
    (hr : r.length ≠ 7) (ht : receiveData k r s = .next t) : t.FailedWith .shortResponse k := by
  rw [receiveData_ack hk, if_neg hr] at ht
  cases ht
  exact failStep_failedWith _ _ _

theorem receiveData_truncatedFrame {r : List Byte} {s t : State}
    (hd : decodeImageResponse s.lenient r = .error .truncatedFrame) (ht : receiveData .four r s = .next t) :
    t.FailedWith .truncatedFrame .four := by
  rw [decodeImageResponse_eq] at hd
  rw [receiveData_image] at ht
  split at ht
  · cases ht
    exact failStep_failedWith _ _ _
  · rename_i haccepted
    rw [if_neg haccepted] at hd
    cases hd

theorem receiveData_completes {r out : List Byte} {s t : State} (hd : decodeImageResponse s.lenient r = .ok out)
    (ht : receiveData .four r s = .next t) : t.CompletedWith out := by
  rw [decodeImageResponse_eq] at hd
  rw [receiveData_image] at ht
  split at ht
  · rename_i hrejected
    rw [if_pos hrejected] at hd
    cases hd
  · rename_i haccepted
    rw [if_neg haccepted] at hd
    obtain rfl := Except.ok.inj hd
    obtain rfl := Host.Outcome.next.inj ht
    exact completeCapture_completedWith _ _

/-- Whatever the verdict on the data, the receive half records one call and leaves the answers still to come. -/
theorem receiveData_calls {k : CaptureStep} {r : List Byte} {s t : State} (ht : receiveData k r s = .next t) :
    t.trace = s.trace ++ [.recv (expectedLen k) s.timeout] ∧ t.recvAnswers = s.recvAnswers ∧
      t.sendAnswers = s.sendAnswers := by
  by_cases hk : k = .four
  · subst hk
    rw [receiveData_image] at ht
    split at ht <;> (cases ht; exact ⟨rfl, rfl, rfl⟩)
  · rw [receiveData_ack hk] at ht
    split at ht <;> (cases ht; exact ⟨rfl, rfl, rfl⟩)

/-! ## The rows of R161 as steps -/

theorem step_send_ok {s : State} {q q' : SState} {k : CaptureStep} {rest : List SendOutcome} (hw : s.HostWaits)
    (hb : s.status.busy = true) (hp : s.phase = .send) (hrow : (q, k, q') ∈ sendRows) (hq : s.sstate = q)
    (ha : s.sendAnswers = .ok :: rest) :
    ∃ t, step s = .next t ∧ t.sstate = q' ∧ t.phase = .recv ∧ t.status.busy = true ∧
      t.trace = s.trace ++ [.send (wireFrame k)] ∧ t.sendAnswers = rest ∧ t.recvAnswers = s.recvAnswers := by
  have hk := (sendRows_spec hrow s hq).1
  have hnext := (sendRows_spec hrow ((s.tick.takeSend rest).callSend k) hq).2
  refine ⟨((s.tick.takeSend rest).callSend k).sent k, ?_, hnext, ?_⟩
  · rw [step_sends hw hb hp hk (by simp [ha]), transmit_ok (s := s.tick) ha]
  · simp [hb, callSend_trace]

theorem step_send_error {s : State} {q q' : SState} {k : CaptureStep} {rest : List SendOutcome} (hw : s.HostWaits)
    (hb : s.status.busy = true) (hp : s.phase = .send) (hrow : (q, k, q') ∈ sendRows) (hq : s.sstate = q)
    (ha : s.sendAnswers = .error :: rest) :
    ∃ t, step s = .next t ∧ t.FailedWith .transportFailure k ∧
      t.trace = s.trace ++ [.send (wireFrame k)] ∧ t.sendAnswers = rest ∧ t.recvAnswers = s.recvAnswers := by
  have hk := (sendRows_spec hrow s hq).1
  refine ⟨((s.tick.takeSend rest).callSend k).failStep .transportFailure k, ?_, failStep_failedWith _ _ _, ?_⟩
  · rw [step_sends hw hb hp hk (by simp [ha]), transmit_error (s := s.tick) ha]
  · simp [callSend_trace]

theorem step_receive_data {s : State} {q : SState} {k : CaptureStep} {r : List Byte} {rest : List RecvOutcome}
    (hw : s.HostWaits) (hb : s.status.busy = true) (hp : s.phase = .recv) (hrow : (q, k) ∈ recvRows)
    (hq : s.sstate = q) (ha : s.recvAnswers = .data r :: rest) :
    ∃ t, step s = .next t ∧ t.trace = s.trace ++ [.recv (if k = .four then 10246 else 7) s.timeout] ∧
      t.recvAnswers = rest ∧ t.sendAnswers = s.sendAnswers ∧
      (∀ q', (q, k, q') ∈ ackRows → r.length = 7 → t.sstate = q' ∧ t.phase = .send ∧ t.status.busy = true) ∧
      (k ≠ .four → r.length ≠ 7 → t.FailedWith .shortResponse k) ∧
      (k = .four → ∀ out, decodeImageResponse s.lenient r = .ok out →
        t.sstate = .complete ∧ t.status.busy = false ∧ t.status.imgValid = true ∧
          t.mem.read? .imgbuf 0 10240 = some out) ∧
      (k = .four → decodeImageResponse s.lenient r = .error .truncatedFrame → t.FailedWith .truncatedFrame .four) := by
  obtain ⟨hk, hlen⟩ := recvRows_spec hrow
  obtain ⟨t, ht⟩ := receiveData_is_next k r (s.tick.takeRecv rest)
  obtain ⟨htrace, hrecv, hsend⟩ := receiveData_calls ht
  refine ⟨t, ?_, hlen ▸ htrace, hrecv, hsend, ?_, ?_, ?_, ?_⟩
  · rw [step_receives hw hb hp (hq ▸ hk) ha, ht]
  · intro q' hack hr
    obtain ⟨-, hne, hnext, -⟩ := ackRows_spec hack
    obtain ⟨hsstate, hphase, hstatus⟩ := receiveData_advances hne hr ht
    exact ⟨hsstate.trans hnext, hphase, hstatus ▸ hb⟩
  · exact fun hne hr => receiveData_shortResponse hne hr ht
  · rintro rfl out hd
    obtain ⟨hsstate, hbusy, -, hvalid, hread⟩ := receiveData_completes (s := s.tick.takeRecv rest) hd ht
    exact ⟨hsstate, hbusy, hvalid, hread⟩
  · rintro rfl hd
    exact receiveData_truncatedFrame (s := s.tick.takeRecv rest) hd ht

/-- The two receive rows without data, once the step is known to be `recvFailed` (`step_receive_fails`). -/
theorem step_receive_fails_row {s : State} {q : SState} {k : CaptureStep} {e : FceError} {rest : List RecvOutcome}
    (hrow : (q, k) ∈ recvRows) (h : step s = .next ((s.tick.takeRecv rest).recvFailed e k)) :
    ∃ t, step s = .next t ∧ t.FailedWith e k ∧
      t.trace = s.trace ++ [.recv (if k = .four then 10246 else 7) s.timeout] ∧
      t.recvAnswers = rest ∧ t.sendAnswers = s.sendAnswers := by
  rw [← (recvRows_spec hrow).2]
  exact ⟨_, h, recvFailed_failedWith _ _ _, rfl, rfl, rfl⟩

/-- From `Complete` and `Failed` there is no row, in either phase. -/
theorem sequencerTurn_over {s : State} (h : s.sstate = .complete ∨ s.sstate = .failed) :
    sequencerTurn s = .error (.next s) := by
  have hsend : sendStep? s.sstate = none := by rcases h with h | h <;> rw [h] <;> rfl
  have hrecv : recvStep? s.sstate = none := by rcases h with h | h <;> rw [h] <;> rfl
  cases hb : s.status.busy with
  | false => simp [sequencerTurn, hb]
  | true =>
    cases hp : s.phase with
    | send => simp only [sequencerTurn_send hb hp, fetchSend, hsend]
    | recv => simp only [sequencerTurn_recv hb hp, fetchRecv, hrecv]

/-- While the host waits on a session that is over, nothing happens, but that a wait for its end is itself over. -/
theorem step_over {s : State} (hw : s.HostWaits) (h : s.sstate = .complete ∨ s.sstate = .failed) :
    step s = .next s ∨ ∃ rest, step s = .next (s.afterEvent rest) := by
  rw [step_eq, fetch]
  rcases hw with hh | ⟨rest, hh⟩
  · left
    simp only [hh, sequencerTurn_over h, runFetched]
  · simp only [hh, sequencerTurn_over h]
    split
    · exact .inl rfl
    · exact .inr ⟨rest, rfl⟩

/-- Settles O29: each row is the half of its step (`transmit`, `receiveData`, `recvFailed`), and at `Complete` and
`Failed` neither `sendStep?` nor `recvStep?` names a step. -/
theorem captureFollowsItsTransitionTable : Obligations.CaptureFollowsItsTransitionTable := by
  intro s hw
  refine ⟨?_, ?_, ?_⟩
  · intro hb hp q k q' hrow hq
    exact ⟨fun _ ha => step_send_ok hw hb hp hrow hq ha, fun _ ha => step_send_error hw hb hp hrow hq ha⟩
  · intro hb hp q k hrow hq
    have hk : recvStep? s.sstate = some k := hq ▸ (recvRows_spec hrow).1
    exact ⟨fun _ _ ha => step_receive_data hw hb hp hrow hq ha,
      fun _ ha => step_receive_fails_row hrow ((step_receive_fails hw hb hp hk).1 ha),
      fun _ ha => step_receive_fails_row hrow ((step_receive_fails hw hb hp hk).2 ha)⟩
  · intro hover
    rcases step_over hw hover with hstep | ⟨rest, hstep⟩ <;> exact ⟨_, hstep, rfl, rfl, rfl, rfl, rfl⟩

/-! ## How a CAPTURE ends -/

/-- The session has ended in one of its two ways (R166). -/
def State.Ended (t : State) : Prop := (∃ out, t.CompletedWith out) ∨ ∃ e k, t.FailedWith e k

/-- The send half leaves the session running, or fails it. -/
theorem transmit_ends {k : CaptureStep} {s t : State} (hb : s.status.busy = true) (ht : transmit k s = .next t) :
    t.status.busy = true ∨ t.Ended := by
  cases ha : s.sendAnswers with
  | nil =>
    simp only [transmit, ha] at ht
    cases ht
    exact .inl hb
  | cons a rest =>
    cases a with
    | ok =>
      rw [transmit_ok ha] at ht
      cases ht
      exact .inl (by simpa using hb)
    | error =>
      rw [transmit_error ha] at ht
      cases ht
      exact .inr (.inr ⟨_, _, failStep_failedWith _ _ _⟩)

/-- The receive half on data leaves the session running, fails it, or completes it. -/
theorem receiveData_ends {k : CaptureStep} {r : List Byte} {s t : State} (hb : s.status.busy = true)
    (ht : receiveData k r s = .next t) : t.status.busy = true ∨ t.Ended := by
  by_cases hk : k = .four
  · subst hk
    rcases decodeImageResponse_cases s.lenient r with hd | hd
    · exact .inr (.inr ⟨_, _, receiveData_truncatedFrame hd ht⟩)
    · exact .inr (.inl ⟨_, receiveData_completes hd ht⟩)
  · by_cases hr : r.length = 7
    · obtain ⟨-, -, hstatus⟩ := receiveData_advances hk hr ht
      exact .inl (hstatus ▸ hb)
    · exact .inr (.inr ⟨_, _, receiveData_shortResponse hk hr ht⟩)

/-- A turn taken while a CAPTURE runs leaves it running, or ends it. -/
theorem Turned.running_or_ended {u t : State} (h : Turned u t) (hb : u.status.busy = true) :
    t.status.busy = true ∨ t.Ended := by
  cases h with
  | stays => exact .inl hb
  | observes o => exact .inl hb
  | sends k _ _ _ ht => exact transmit_ends hb ht
  | receives k r _ _ _ ht => exact receiveData_ends hb ht
  | receiveFails e k => exact .inr (.inr ⟨e, k, recvFailed_failedWith e k u⟩)
  | writes w ht =>
    rcases hostWrite_next ht with rfl | ⟨hidle, -⟩
    · exact .inl hb
    · cases hb.symm.trans hidle
  | encodes hidle | encodesPayload _ hidle | validates hidle | validatesResponse _ hidle | unpacks hidle
  | unpacksResponse _ hidle | starts hidle | resets hidle => cases hb.symm.trans hidle

/-- Settles O36: a step is a turn (`step_next`), and of the turns a running CAPTURE can take, those that end it complete
with a raster read back from `IMGBUF` or fail. -/
theorem noPartialSuccess : Obligations.NoPartialSuccess := by
  intro s t hb hstep hidle
  obtain ⟨u, hsame, hturn⟩ := step_next hstep
  rcases hturn.running_or_ended (hsame.status ▸ hb) with hrun | ⟨out, hdone⟩ | ⟨e, k, hfail⟩
  · cases hrun.symm.trans hidle
  · obtain ⟨hsstate, -, hresult, hvalid, hread⟩ := hdone
    exact .inl ⟨hsstate, hresult, hvalid, out, hread, Memory.read?_length hread⟩
  · obtain ⟨hsstate, -, hresult, herrStep, hvalid⟩ := hfail
    exact .inr ⟨hsstate, ⟨e, k, hresult, herrStep⟩, hvalid⟩

end Sys2Proof.Machine
end

section
/-! PROOFS. Decode and encode agree, and the well-formed command frames are exactly the frames of ENC (30_encoding.md §1
to §5; 40_encode.md ENC). -/

namespace Sys2Proof

/-! ## The body of a command frame -/

/-- Length, payload and last byte cancel exactly when the last byte is the checksum of the payload (R87, R96). -/
theorem xorAll_body_eq_zero_iff (p : List Byte) (c : Byte) :
    xorAll (BitVec.ofNat 8 p.length :: (p ++ [c])) = 0#8 ↔ c = checksum p := by
  have hlast : xorAll [c] = c := by simp [xorAll]
  rw [xorAll_cons, xorAll_append, hlast, checksum_eq, ← BitVec.xor_assoc, BitVec.xor_eq_zero_iff]
  exact eq_comm

/-- A list of `n + 1` bytes is its first `n` bytes and one more. -/
theorem exists_eq_take_append_singleton {n : Nat} {rest : List Byte} (h : rest.length = n + 1) :
    ∃ c, rest = rest.take n ++ [c] := by
  have hdrop : (rest.drop n).length = 1 := by rw [List.length_drop]; omega
  obtain ⟨c, hc⟩ := List.length_eq_one_iff.mp hdrop
  exact ⟨c, by rw [← hc, List.take_append_drop]⟩

theorem payloadOk_take {len : Byte} {rest : List Byte} (h0 : len ≠ 0#8) (hl : rest.length = len.toNat + 1) :
    payloadOk (rest.take len.toNat) = true := by
  have hpos : len.toNat ≠ 0 := fun hz => h0 (BitVec.eq_of_toNat_eq (by simpa using hz))
  have hlt := len.isLt
  rw [payloadOk_iff, List.length_take]
  omega

/-- A word that passes the checks of R96 is the frame of its bytes 3 to `len - 2`. -/
theorem eq_frameOf_take {len : Byte} {rest : List Byte} (hl : rest.length = len.toNat + 1)
    (hx : xorAll (len :: rest) = 0#8) :
    Config.hdr0 :: Config.hdr1 :: len :: rest = frameOf (rest.take len.toNat) := by
  obtain ⟨c, hc⟩ := exists_eq_take_append_singleton hl
  have hlen : BitVec.ofNat 8 (rest.take len.toNat).length = len := by
    rw [List.length_take, Nat.min_eq_left (by omega), BitVec.ofNat_toNat, BitVec.setWidth_eq]
  generalize hp : rest.take len.toNat = p at hc hlen
  subst hc
  rw [← hlen, xorAll_body_eq_zero_iff] at hx
  rw [frameOf, ← hx, hlen]
  rfl

theorem isCommandFrame_cons (h0 h1 len : Byte) (rest : List Byte) :
    isCommandFrame (h0 :: h1 :: len :: rest) = true ↔
      h0 = Config.hdr0 ∧ h1 = Config.hdr1 ∧ len ≠ 0#8 ∧ rest.length = len.toNat + 1 ∧ xorAll (len :: rest) = 0#8 := by
  simp only [isCommandFrame, Bool.and_eq_true, beq_iff_eq, bne_iff_ne, and_assoc]

theorem isCommandFrame_of_short {f : List Byte} (h : f.length < 3) : isCommandFrame f = false := by
  match f, h with
  | [], _ | [_], _ | [_, _], _ => rfl

/-- Fewer than three bytes, or at least three. -/
theorem short_or_three (f : List Byte) : f.length < 3 ∨ ∃ h0 h1 len rest, f = h0 :: h1 :: len :: rest := by
  match f with
  | [] | [_] | [_, _] => exact .inl (by simp)
  | h0 :: h1 :: len :: rest => exact .inr ⟨h0, h1, len, rest, rfl⟩

/-- The well-formed command frames are exactly the frames of legal payloads (30_encoding.md §5). -/
theorem isCommandFrame_iff_frameOf (f : List Byte) :
    isCommandFrame f = true ↔ ∃ p, payloadOk p = true ∧ f = frameOf p := by
  constructor
  · intro h
    rcases short_or_three f with hs | ⟨h0, h1, len, rest, rfl⟩
    · cases (isCommandFrame_of_short hs).symm.trans h
    · obtain ⟨rfl, rfl, hne, hl, hx⟩ := (isCommandFrame_cons ..).mp h
      exact ⟨_, payloadOk_take hne hl, eq_frameOf_take hl hx⟩
  · rintro ⟨p, hp, rfl⟩
    exact isCommandFrame_frameOf hp

/-- What the frame decoder accepts: the frame of a legal payload, decoded to that payload's row. -/
theorem decodeFrame_ok {bytes : List Byte} {i : Instr} (h : decodeFrame bytes = .ok i) :
    ∃ p, payloadOk p = true ∧ bytes = frameOf p ∧ i = frameInstr p := by
  unfold decodeFrame at h
  split at h
  · iterate 5 (split at h; · cases h)
    rename_i h0 h1 hne hl hx
    rw [Decidable.not_not] at h0 h1 hl hx
    subst h0 h1
    cases h
    exact ⟨_, payloadOk_take hne hl, eq_frameOf_take hl hx, rfl⟩
  · cases h

/-! ## The row of a payload -/

theorem mem_fixedPayloads_iff (p : List Byte) : p ∈ fixedPayloads ↔ ∃ k, p = cmdPayload k := by
  constructor
  · intro h
    simp only [fixedPayloads, List.mem_cons, List.not_mem_nil, or_false] at h
    rcases h with rfl | rfl | rfl | rfl
    exacts [⟨.one, rfl⟩, ⟨.two, rfl⟩, ⟨.three, rfl⟩, ⟨.four, rfl⟩]
  · rintro ⟨k, rfl⟩
    cases k <;> decide

theorem frameInstr_of_not_fixed {p : List Byte} (h : p ∉ fixedPayloads) : frameInstr p = .cmdFrame p := by
  have hne : ∀ k, p ≠ cmdPayload k := fun k hk => h ((mem_fixedPayloads_iff p).mpr ⟨k, hk⟩)
  simp only [frameInstr, hne, if_false]

theorem wellFormed_cmdFrame_iff (p : List Byte) :
    (Instr.cmdFrame p).wellFormed = true ↔ payloadOk p = true ∧ p ∉ fixedPayloads := by
  simp only [Instr.wellFormed, Bool.and_eq_true, Bool.not_eq_true', List.contains_eq_mem, decide_eq_false_iff_not]

/-- The row of a legal payload is a well-formed command frame, and its encoding is the frame of the payload. -/
theorem frameInstr_spec {p : List Byte} (h : payloadOk p = true) :
    (frameInstr p).format = .cf ∧ (frameInstr p).wellFormed = true ∧ encode (frameInstr p) = frameOf p := by
  by_cases hf : p ∈ fixedPayloads
  · obtain ⟨k, rfl⟩ := (mem_fixedPayloads_iff p).mp hf
    rw [frameInstr_cmdPayload]
    cases k <;> exact ⟨rfl, rfl, rfl⟩
  · rw [frameInstr_of_not_fixed hf]
    exact ⟨rfl, (wellFormed_cmdFrame_iff p).mpr ⟨h, hf⟩, rfl⟩

/-! ## Decode of encode, format by format -/

theorem decode_encode_cmdFrame {p : List Byte} (h : (Instr.cmdFrame p).wellFormed = true) :
    decode .cf (frameOf p) = .ok (.cmdFrame p) := by
  obtain ⟨hp, hf⟩ := (wellFormed_cmdFrame_iff p).mp h
  rw [decode_frameOf hp, frameInstr_of_not_fixed hf]

theorem decodeImgResp_append {h px t : List Byte} (h1 : h.length = 4) (h2 : px.length = 10240) (h3 : t.length = 2) :
    decodeImgResp (h ++ px ++ t) = .ok (.imgResp h px t) := by
  have hl : (h ++ px ++ t).length = Config.imgRespLen := by
    simp only [List.length_append, h1, h2, h3, Config.imgRespLen]
  have ht : (h ++ px ++ t).drop (Config.imgHdrLen + Config.rasterLen) = t := List.drop_left' (by simp [h1, h2])
  rw [decodeImgResp, if_pos hl, ht, List.append_assoc, List.take_left' h1, List.drop_left' h1, List.take_left' h2]

theorem wellFormed_imgResp_iff (h px t : List Byte) :
    (Instr.imgResp h px t).wellFormed = true ↔ h.length = 4 ∧ px.length = 10240 ∧ t.length = 2 := by
  simp only [Instr.wellFormed, decide_eq_true_eq, Config.imgHdrLen, Config.rasterLen, Config.imgTrailerLen]

/-- Settles O1, row by row: a generic frame's payload is none of the fixed four, the other lengths are their
formats'. -/
theorem decodeOfEncodeIsTheInstruction : Obligations.DecodeOfEncodeIsTheInstruction := by
  intro i hw
  cases i with
  | enc | ack | img | capture => rfl
  | cmdFrame p => exact decode_encode_cmdFrame hw
  | statusCheck => exact decode_cmdPayload .one
  | prepareSensor => exact decode_cmdPayload .two
  | triggerCapture => exact decode_cmdPayload .three
  | requestImage => exact decode_cmdPayload .four
  | ackResp r => exact if_pos (of_decide_eq_true hw)
  | imgResp h px t =>
    obtain ⟨h1, h2, h3⟩ := (wellFormed_imgResp_iff h px t).mp hw
    exact decodeImgResp_append h1 h2 h3
  | sensorFrame px => exact if_pos (of_decide_eq_true hw)

/-! ## Encode of decode, format by format -/

/-- `i` is a well-formed instruction of format `f` whose encoding is `bytes`. -/
def Instr.EncodesTo (i : Instr) (f : Format) (bytes : List Byte) : Prop :=
  i.format = f ∧ i.wellFormed = true ∧ encode i = bytes

theorem decodeOp_encodesTo {bytes : List Byte} {i : Instr} (h : decodeOp bytes = .ok i) : i.EncodesTo .op bytes := by
  unfold decodeOp at h
  split at h
  · repeat' split at h
    all_goals
      cases h
    all_goals
      rename_i hb
      exact ⟨rfl, rfl, by rw [hb]; rfl⟩
  · cases h

theorem decodeFrame_encodesTo {bytes : List Byte} {i : Instr} (h : decodeFrame bytes = .ok i) :
    i.EncodesTo .cf bytes := by
  obtain ⟨p, hp, rfl, rfl⟩ := decodeFrame_ok h
  exact frameInstr_spec hp

theorem decodeAckResp_encodesTo {r : List Byte} {i : Instr} (h : decodeAckResp r = .ok i) : i.EncodesTo .ar r := by
  unfold decodeAckResp at h
  split at h <;> cases h
  exact ⟨rfl, decide_eq_true ‹_›, rfl⟩

theorem decodeImgResp_encodesTo {r : List Byte} {i : Instr} (h : decodeImgResp r = .ok i) : i.EncodesTo .ir r := by
  unfold decodeImgResp at h
  split at h <;> cases h
  rename_i hl
  simp only [Config.imgRespLen] at hl
  refine ⟨rfl, (wellFormed_imgResp_iff ..).mpr ?_, ?_⟩
  · simp only [List.length_take, List.length_drop, Config.imgHdrLen, Config.rasterLen]
    omega
  · rw [encode, ← List.drop_drop, List.append_assoc, List.take_append_drop, List.take_append_drop]

theorem decodeSensorFrame_encodesTo {r : List Byte} {i : Instr} (h : decodeSensorFrame r = .ok i) :
    i.EncodesTo .sf r := by
  unfold decodeSensorFrame at h
  split at h <;> cases h
  exact ⟨rfl, decide_eq_true ‹_›, rfl⟩

/-- Settles O2: each format's decoder accepts only encodings of its own well-formed rows. -/
theorem encodeOfDecodeIsTheWord : Obligations.EncodeOfDecodeIsTheWord := by
  intro f bytes i h
  cases f with
  | op => exact decodeOp_encodesTo h
  | cf => exact decodeFrame_encodesTo h
  | ar => exact decodeAckResp_encodesTo h
  | ir => exact decodeImgResp_encodesTo h
  | sf => exact decodeSensorFrame_encodesTo h

/-- Settles O3: each word is evaluated by the decoder. -/
theorem specWordsDecodeAsTabled : Obligations.SpecWordsDecodeAsTabled := by
  unfold Obligations.SpecWordsDecodeAsTabled
  decide

/-! ## The frames of ENC -/

open Machine

theorem encodeCommand_eq_ok_iff (p f : List Byte) :
    encodeCommand p = .ok f ↔ payloadOk p = true ∧ frameOf p = f := by
  rw [encodeCommand_eq]
  split <;> simp_all

/-- The payload of a frame is its bytes 3 to `len - 2`. -/
theorem take_drop_frameOf (p : List Byte) : ((frameOf p).drop 3).take p.length = p := by
  simp [frameOf]

theorem frameOf_take_three (p : List Byte) : (frameOf p).take 3 = [0x02#8, 0x00#8, BitVec.ofNat 8 p.length] := by
  simp [frameOf]

theorem frameOf_getLast? (p : List Byte) : (frameOf p).getLast? = some (BitVec.ofNat 8 p.length ^^^ xorAll p) := by
  rw [frameOf, List.getLast?_concat, checksum_eq]

theorem encodeCommand_payload {p f : List Byte} (h : encodeCommand p = .ok f) :
    p = (f.drop 3).take (f.length - 4) := by
  obtain ⟨-, rfl⟩ := (encodeCommand_eq_ok_iff p f).mp h
  rw [frameOf_length, Nat.add_sub_cancel, take_drop_frameOf]

/-- The clauses of R96 as the spec words them, over indexes. -/
theorem isCommandFrame_iff_clauses (f : List Byte) :
    isCommandFrame f = true ↔
      5 ≤ f.length ∧ f[0]? = some 0x02#8 ∧ f[1]? = some 0x00#8 ∧
      (∃ n : Byte, f[2]? = some n ∧ 1 ≤ n.toNat ∧ f.length = n.toNat + 4) ∧ xorAll (f.drop 2) = 0#8 := by
  rcases short_or_three f with hs | ⟨h0, h1, len, rest, rfl⟩
  · rw [isCommandFrame_of_short hs]
    refine iff_of_false Bool.false_ne_true (fun h => ?_)
    have h5 := h.1
    omega
  · rw [isCommandFrame_cons]
    have hzero : len ≠ 0#8 ↔ 1 ≤ len.toNat := by
      rw [Nat.one_le_iff_ne_zero, Ne, Ne, BitVec.toNat_eq, BitVec.toNat_ofNat, Nat.zero_mod]
    simp only [List.length_cons, List.getElem?_cons_zero, List.getElem?_cons_succ, Option.some.injEq,
      List.drop_succ_cons, List.drop_zero, exists_eq_left', hzero, Config.hdr0, Config.hdr1]
    constructor
    · rintro ⟨h0, h1, hl, hr, hx⟩
      exact ⟨by omega, h0, h1, ⟨hl, by omega⟩, hx⟩
    · rintro ⟨-, h0, h1, ⟨hl, hr⟩, hx⟩
      exact ⟨h0, h1, hl, by omega, hx⟩

/-- Settles O4: a well-formed frame is the frame of a legal payload (`isCommandFrame_iff_frameOf`), and the payload can
be read off it. -/
theorem wellFormedFramesAreEncFrames : Obligations.WellFormedFramesAreEncFrames := by
  intro f
  refine ⟨isCommandFrame_iff_clauses f, ?_, fun _ => encodeCommand_payload⟩
  rw [isCommandFrame_iff_frameOf]
  exact exists_congr fun p => by rw [encodeCommand_eq_ok_iff, eq_comm (a := f)]

/-- Settles O5: the layout of `frameOf`; ENC is injective because the frame gives its payload back. -/
theorem encodeCommandFrameProperty : Obligations.EncodeCommandFrameProperty := by
  constructor
  · intro p h1 h2
    exact ⟨frameOf p, encodeCommand_ok ((payloadOk_iff p).mpr ⟨h1, h2⟩), frameOf_length p, frameOf_take_three p,
      take_drop_frameOf p, frameOf_getLast? p⟩
  · intro p q f hp hq
    rw [encodeCommand_payload hp, ← encodeCommand_payload hq]

end Sys2Proof
end

section
/-! PROOFS. The coherence invariant: it holds at reset and every step keeps it (10_state.md §2, §4; 20_memory.md §1;
43_capture.md §3; 60_exceptions.md §1). It is split into three parts, over the buffers, the position, and the cause of
an error; each operation keeps each part. -/

namespace Sys2Proof.Machine

/-! ## The three parts -/

/-- The buffers are canonical, and a valid bit has its frame or its raster behind it (R24, R26, R50, R51). -/
structure State.Backed (s : State) : Prop where
  memory : s.mem.wf
  frame : s.status.txValid = true →
    5 ≤ s.txlen.toNat ∧ s.txlen.toNat ≤ 259 ∧
      ∃ f, s.mem.read? .txbuf 0 s.txlen.toNat = some f ∧ isCommandFrame f = true
  raster : s.status.imgValid = true → ∃ out, s.mem.read? .imgbuf 0 10240 = some out

/-- A running session stands at a position, any other is fresh or over (R27, R161, R169). -/
structure State.Positioned (s : State) : Prop where
  running : s.status.busy = true → s.status.imgValid = false ∧ s.AtPosition
  resting : s.status.busy = false → s.phase = .send ∧ (s.sstate = .idle ∨ s.sstate = .complete ∨ s.sstate = .failed)

/-- The error and the step in `STATUS` belong together (R28, R170, R190). -/
structure Status.Caused (st : Status) : Prop where
  failedStep : ∀ k, st.errStep = some k → ∃ e, st.result = .err e ∧ causeArises e k = true
  failedOp : st.errStep = none → st.result ≠ .err .timeout ∧ st.result ≠ .err .transportFailure

theorem coherent_iff (s : State) : s.Coherent ↔ s.Backed ∧ s.Positioned ∧ s.status.Caused :=
  ⟨fun ⟨h1, h2, h3, h4, h5, h6, h7⟩ => ⟨⟨h1, h2, h3⟩, ⟨h4, h5⟩, ⟨h6, h7⟩⟩,
    fun ⟨⟨h1, h2, h3⟩, ⟨h4, h5⟩, ⟨h6, h7⟩⟩ => ⟨h1, h2, h3, h4, h5, h6, h7⟩⟩

/-! ## Buffers and valid bits -/

/-- A valid bit may be cleared at any time. -/
theorem State.Backed.of_valid_le {s t : State} (hs : s.Backed) (hm : t.mem = s.mem) (hl : t.txlen = s.txlen)
    (htx : t.status.txValid = true → s.status.txValid = true)
    (himg : t.status.imgValid = true → s.status.imgValid = true) : t.Backed where
  memory := hm ▸ hs.memory
  frame h := hm ▸ hl ▸ hs.frame (htx h)
  raster h := hm ▸ hs.raster (himg h)

/-- Writing an operand buffer touches neither the frame nor the raster (R22). -/
theorem State.Backed.of_write_operand {s t : State} {sp : Space} {a : Nat} {vs : List Byte} (hs : s.Backed)
    (hsp : sp = .pbuf ∨ sp = .rxbuf) (hfit : a + vs.length ≤ sp.size) (hm : t.mem = s.mem.write sp a vs)
    (hl : t.txlen = s.txlen) (hst : t.status = s.status) : t.Backed where
  memory := hm ▸ Memory.wf_write hs.memory hfit
  frame h := by
    have hne : Space.txbuf ≠ sp := by rcases hsp with rfl | rfl <;> decide
    rw [hm, hl, Memory.read?_write_other _ _ _ _ _ hne]
    exact hs.frame (hst ▸ h)
  raster h := by
    have hne : Space.imgbuf ≠ sp := by rcases hsp with rfl | rfl <;> decide
    rw [hm, Memory.read?_write_other _ _ _ _ _ hne]
    exact hs.raster (hst ▸ h)

theorem take_size_fits (sp : Space) (vs : List Byte) : 0 + (vs.take sp.size).length ≤ sp.size := by
  rw [Nat.zero_add]
  exact List.length_take_le _ _

theorem State.Backed.presentPayload {s : State} (hs : s.Backed) (p : List Byte) : (s.presentPayload p).Backed :=
  hs.of_write_operand (.inl rfl) (take_size_fits .pbuf p) rfl rfl rfl

theorem State.Backed.storeResponse {s : State} (hs : s.Backed) (r : List Byte) : (s.storeResponse r).Backed :=
  hs.of_write_operand (.inr rfl) (take_size_fits .rxbuf r) rfl rfl rfl

/-- The frame ENC leaves is well formed (R96, R110). -/
theorem State.Backed.writeFrame {s : State} (hs : s.Backed) {p : List Byte} (hp : payloadOk p = true) :
    (s.writeFrame p).Backed := by
  obtain ⟨h1, h2⟩ := (payloadOk_iff p).mp hp
  refine ⟨Memory.wf_write hs.memory ?_, fun _ => ?_, fun h => ?_⟩
  · rw [frameOf_length, Space.size]
    omega
  · have hlen : (s.writeFrame p).txlen.toNat = p.length + 4 := txlen_toNat h2
    exact ⟨by omega, by omega, frameOf p, read?_encoded_frame h2 s, isCommandFrame_frameOf hp⟩
  · rw [State.writeFrame_mem, Memory.read?_write_other _ _ _ _ _ (by decide)]
    exact hs.raster h

/-- The raster IMG leaves has its 10240 bytes (R130, R166). -/
theorem State.Backed.writeRaster {s : State} (hs : s.Backed) {out : List Byte} (ho : out.length = 10240) :
    (s.writeRaster out).Backed := by
  refine ⟨Memory.wf_write hs.memory (by rw [ho, Space.size]), fun h => ?_, fun _ => ⟨out, ?_⟩⟩
  · rw [State.writeRaster_mem, Memory.read?_write_other _ _ _ _ _ (by decide)]
    exact hs.frame h
  · rw [State.writeRaster_mem]
    exact Memory.read?_write_all ho

theorem payloadOk_cmdPayload (k : CaptureStep) : payloadOk (cmdPayload k) = true := by cases k <;> decide

theorem State.Backed.callSend {s : State} (hs : s.Backed) (k : CaptureStep) : (s.callSend k).Backed :=
  ((hs.presentPayload (cmdPayload k)).writeFrame (payloadOk_cmdPayload k)).of_valid_le rfl rfl id id

theorem State.Backed.failStep {s : State} (hs : s.Backed) (e : FceError) (k : CaptureStep) :
    (s.failStep e k).Backed :=
  hs.of_valid_le rfl rfl id (fun h => by cases h)

/-! ## Positions -/

/-- While nothing runs, the session stays where it is. -/
theorem State.Positioned.of_idle {s t : State} (hs : s.Positioned) (hb : s.status.busy = false)
    (ht : t.status.busy = false) (hp : t.phase = s.phase) (hq : t.sstate = s.sstate) : t.Positioned where
  running h := by cases ht.symm.trans h
  resting _ := hp ▸ hq ▸ hs.resting hb

/-- An operation that ends a session leaves it complete or failed, about to send (R161, R197). -/
theorem positioned_of_over {t : State} (ht : t.status.busy = false) (hp : t.phase = .send)
    (hq : t.sstate = .complete ∨ t.sstate = .failed) : t.Positioned where
  running h := by cases ht.symm.trans h
  resting _ := ⟨hp, .inr hq⟩

theorem positioned_of_running {t : State} (ht : t.status.busy = true) (hi : t.status.imgValid = false)
    (hat : t.AtPosition) : t.Positioned where
  running _ := ⟨hi, hat⟩
  resting h := by cases ht.symm.trans h

theorem failStep_positioned (s : State) (e : FceError) (k : CaptureStep) : (s.failStep e k).Positioned :=
  positioned_of_over rfl rfl (.inr rfl)

/-- After the send of a step its receive is next (R161). -/
theorem recvStep?_sent {s : State} {k : CaptureStep} (h : sendStep? s.sstate = some k) :
    recvStep? (s.sent k).sstate = some k := by
  cases hq : s.sstate <;> rw [hq] at h <;> cases h
  case captureTriggered => rfl
  all_goals
    show recvStep? s.sstate = _
    rw [hq]
    rfl

/-- After an acknowledgement there is a next step to send (R161). -/
theorem sendStep?_nextState {k : CaptureStep} (h : k ≠ .four) : (sendStep? (nextState k)).isSome := by
  cases k with
  | four => exact absurd rfl h
  | one | two | three => rfl

/-! ## Causes -/

theorem Status.Caused.congr {st st' : Status} (h : st.Caused) (hr : st'.result = st.result)
    (hk : st'.errStep = st.errStep) : st'.Caused where
  failedStep := by rw [hr, hk]; exact h.failedStep
  failedOp := by rw [hr, hk]; exact h.failedOp

theorem Status.completed_caused (st : Status) : st.completed.Caused where
  failedStep k h := by cases h
  failedOp _ := ⟨nofun, nofun⟩

/-- An error of a capture step, with a cause that can arise there (R170). -/
theorem Status.failed_at_step_caused (st : Status) {e : FceError} {k : CaptureStep} (h : causeArises e k = true) :
    (st.failed .capture e (some k)).Caused where
  failedStep k' hk := by cases hk; exact ⟨e, rfl, h⟩
  failedOp hk := by cases hk

/-- An error of ENC, ACK or IMG (R190). -/
theorem Status.failed_op_caused (st : Status) (op : Operation) {e : FceError} (h1 : e ≠ .timeout)
    (h2 : e ≠ .transportFailure) : (st.failed op e none).Caused where
  failedStep k hk := by rw [Status.failed_errStep] at hk; cases hk
  failedOp _ := by simp [h1, h2]

/-! ## The operations keep coherence -/

/-- Coherence is about the buffers, `STATUS`, `TXLEN` and the position alone. -/
theorem State.Coherent.congr {s t : State} (hs : s.Coherent) (hm : t.mem = s.mem) (hst : t.status = s.status)
    (hl : t.txlen = s.txlen) (hq : t.sstate = s.sstate) (hp : t.phase = s.phase) : t.Coherent := by
  obtain ⟨h1, h2, h3, h4, h5, h6, h7⟩ := hs
  constructor <;> simp only [State.AtPosition, hm, hst, hl, hq, hp] <;> assumption

theorem State.SameRegisters.coherent {s u : State} (h : s.SameRegisters u) (hs : s.Coherent) : u.Coherent :=
  hs.congr h.mem h.status h.txlen h.sstate h.phase

theorem State.Coherent.of_write_operand {s : State} {sp : Space} {a : Nat} {vs : List Byte} (hs : s.Coherent)
    (hsp : sp = .pbuf ∨ sp = .rxbuf) (hfit : a + vs.length ≤ sp.size) :
    ({ s with mem := s.mem.write sp a vs } : State).Coherent := by
  obtain ⟨hback, hpos, hcause⟩ := (coherent_iff s).mp hs
  exact (coherent_iff _).mpr ⟨hback.of_write_operand hsp hfit rfl rfl rfl, ⟨hpos.running, hpos.resting⟩, hcause⟩

theorem State.Coherent.presentPayload {s : State} (hs : s.Coherent) (p : List Byte) :
    (s.presentPayload p).Coherent :=
  (hs.of_write_operand (.inl rfl) (take_size_fits .pbuf p)).congr rfl rfl rfl rfl rfl

theorem State.Coherent.storeResponse {s : State} (hs : s.Coherent) (r : List Byte) : (s.storeResponse r).Coherent :=
  (hs.of_write_operand (.inr rfl) (take_size_fits .rxbuf r)).congr rfl rfl rfl rfl rfl

theorem payloadOk_of_payload? {s : State} {p : List Byte} (hok : s.payloadLengthOk = true)
    (hp : s.payload? = some p) : payloadOk p = true := by
  rw [payloadOk_iff, payload?_length hp]
  exact (payloadLengthOk_iff s).mp hok

theorem encodeOperand_coherent {s t : State} (hs : s.Coherent) (hb : s.status.busy = false)
    (h : encodeOperand s = .next t) : t.Coherent := by
  obtain ⟨hback, hpos, -⟩ := (coherent_iff s).mp hs
  rw [coherent_iff]
  rcases encodeOperand_next h with ⟨hok, p, hp, rfl⟩ | ⟨-, rfl⟩
  · exact ⟨(hback.writeFrame (payloadOk_of_payload? hok hp)).of_valid_le rfl rfl id id,
      hpos.of_idle hb rfl rfl rfl, Status.completed_caused _⟩
  · exact ⟨hback.of_valid_le rfl rfl nofun id, hpos.of_idle hb rfl rfl rfl,
      Status.failed_op_caused _ .enc nofun nofun⟩

theorem validateOperand_next {s t : State} (h : validateOperand s = .next t) :
    (s.ackOk = true ∧ t = (s.latch .ack).completeOp) ∨
    (s.ackOk = false ∧ t = (s.latch .ack).raiseError .ack .shortResponse none) := by
  unfold validateOperand at h
  split at h <;> cases h
  · exact .inl ⟨‹_›, rfl⟩
  · exact .inr ⟨Bool.eq_false_of_not_eq_true ‹_›, rfl⟩

theorem validateOperand_coherent {s t : State} (hs : s.Coherent) (hb : s.status.busy = false)
    (h : validateOperand s = .next t) : t.Coherent := by
  obtain ⟨hback, hpos, -⟩ := (coherent_iff s).mp hs
  rw [coherent_iff]
  rcases validateOperand_next h with ⟨-, rfl⟩ | ⟨-, rfl⟩
  · exact ⟨hback.of_valid_le rfl rfl id id, hpos.of_idle hb rfl rfl rfl, Status.completed_caused _⟩
  · exact ⟨hback.of_valid_le rfl rfl id id, hpos.of_idle hb rfl rfl rfl,
      Status.failed_op_caused _ .ack nofun nofun⟩

theorem unpackOperand_coherent {s t : State} (hs : s.Coherent) (hb : s.status.busy = false)
    (h : unpackOperand s = .next t) : t.Coherent := by
  obtain ⟨hback, hpos, -⟩ := (coherent_iff s).mp hs
  rw [coherent_iff]
  rcases unpackOperand_next h with ⟨-, out, hout, rfl⟩ | ⟨-, rfl⟩
  · exact ⟨(hback.writeRaster (rasterOfResponse?_length hout)).of_valid_le rfl rfl id id,
      hpos.of_idle hb rfl rfl rfl, Status.completed_caused _⟩
  · exact ⟨hback.of_valid_le rfl rfl id nofun, hpos.of_idle hb rfl rfl rfl,
      Status.failed_op_caused _ .img nofun nofun⟩

theorem startSession_coherent {s : State} (hs : s.Coherent) : s.startSession.Coherent := by
  obtain ⟨hback, -, hcause⟩ := (coherent_iff s).mp hs
  exact (coherent_iff _).mpr ⟨hback.of_valid_le rfl rfl id nofun,
    positioned_of_running rfl rfl (.inl ⟨rfl, rfl⟩), hcause.congr rfl rfl⟩

/-- A step of the session fails, with a cause that can arise there. -/
theorem failStep_coherent {s : State} {e : FceError} {k : CaptureStep} (hs : s.Backed)
    (h : causeArises e k = true) : (s.failStep e k).Coherent :=
  (coherent_iff _).mpr ⟨hs.failStep e k, failStep_positioned s e k, Status.failed_at_step_caused _ h⟩

/-- The send half of a step at its position. -/
theorem transmit_coherent {k : CaptureStep} {s t : State} (hs : s.Coherent) (hb : s.status.busy = true)
    (hk : sendStep? s.sstate = some k) (h : transmit k s = .next t) : t.Coherent := by
  obtain ⟨hback, hpos, hcause⟩ := (coherent_iff s).mp hs
  have hcall : ∀ rest, ((s.takeSend rest).callSend k).Backed :=
    fun rest => (hback.of_valid_le (t := s.takeSend rest) rfl rfl id id).callSend k
  cases ha : s.sendAnswers with
  | nil =>
    simp only [transmit, ha] at h
    cases h
    exact hs
  | cons a rest =>
    cases a with
    | ok =>
      rw [transmit_ok ha] at h
      cases h
      rw [coherent_iff, State.sent_status]
      refine ⟨(hcall rest).of_valid_le (by simp) (by simp) (by simp) (by simp), ?_, hcause.congr rfl rfl⟩
      have hrecv : recvStep? (((s.takeSend rest).callSend k).sent k).sstate = some k := recvStep?_sent hk
      exact positioned_of_running (by simpa using hb) (by simpa using (hpos.running hb).1)
        (.inr ⟨State.sent_phase _ k, by rw [hrecv]; rfl⟩)
    | error =>
      rw [transmit_error ha] at h
      cases h
      exact failStep_coherent (hcall rest) rfl

/-- The receive half of a step on data. -/
theorem receiveData_coherent {k : CaptureStep} {r : List Byte} {s t : State} (hs : s.Coherent)
    (hb : s.status.busy = true) (h : receiveData k r s = .next t) : t.Coherent := by
  obtain ⟨hback, hpos, hcause⟩ := (coherent_iff s).mp hs
  have hstored : ((s.callRecv k).storeResponse r).Backed :=
    (hback.of_valid_le (t := s.callRecv k) rfl rfl id id).storeResponse r
  by_cases hk : k = .four
  · subst hk
    rw [receiveData_image] at h
    split at h <;> cases h
    · exact failStep_coherent hstored rfl
    · exact (coherent_iff _).mpr ⟨(hstored.writeRaster (unpackImage_length r)).of_valid_le rfl rfl id id,
        positioned_of_over rfl rfl (.inl rfl), Status.completed_caused _⟩
  · rw [receiveData_ack hk] at h
    split at h <;> cases h
    · exact (coherent_iff _).mpr ⟨hstored.of_valid_le rfl rfl id id,
        positioned_of_running hb (hpos.running hb).1 (.inl ⟨rfl, sendStep?_nextState hk⟩), hcause.congr rfl rfl⟩
    · exact failStep_coherent hstored (by simpa [causeArises] using hk)

theorem recvFailed_coherent {s : State} {e : FceError} (k : CaptureStep) (hs : s.Coherent)
    (he : e = .timeout ∨ e = .transportFailure) : (s.recvFailed e k).Coherent := by
  have hback := ((coherent_iff s).mp hs).1
  refine failStep_coherent (hback.of_valid_le (t := s.callRecv k) rfl rfl id id) ?_
  rcases he with rfl | rfl <;> rfl

theorem hostWrite_coherent {w : HostWrite} {s t : State} (hs : s.Coherent) (h : hostWrite w s = .next t) :
    t.Coherent := by
  rcases hostWrite_next h with rfl | ⟨-, ⟨v, -, rfl⟩ | ⟨v, -, rfl⟩ | ⟨n, -, rfl⟩ | ⟨n, -, rfl⟩ |
    ⟨sp, a, bs, -, hsp, hfit, rfl⟩⟩
  · exact hs
  · exact hs.congr rfl rfl rfl rfl rfl
  · exact hs.congr rfl rfl rfl rfl rfl
  · exact hs.congr rfl rfl rfl rfl rfl
  · exact hs.congr rfl rfl rfl rfl rfl
  · exact hs.of_write_operand hsp hfit

/-- Settles O37: nothing is valid, nothing runs, and no operation has ended. -/
theorem resetIsCoherent : Obligations.ResetIsCoherent where
  memory := State.reset_mem_wf
  frame := nofun
  raster := nofun
  running := nofun
  resting _ := ⟨rfl, .inl rfl⟩
  failedStep _ := nofun
  failedOp _ := ⟨nofun, nofun⟩

theorem Turned.coherent {u t : State} (h : Turned u t) (hu : u.Coherent) : t.Coherent := by
  cases h with
  | stays => exact hu
  | observes o => exact hu.congr rfl rfl rfl rfl rfl
  | encodes hb ht => exact encodeOperand_coherent hu hb ht
  | encodesPayload p hb _ ht => exact encodeOperand_coherent (hu.presentPayload p) hb ht
  | validates hb ht => exact validateOperand_coherent hu hb ht
  | validatesResponse r hb ht => exact validateOperand_coherent (hu.storeResponse r) hb ht
  | unpacks hb ht => exact unpackOperand_coherent hu hb ht
  | unpacksResponse r hb ht => exact unpackOperand_coherent (hu.storeResponse r) hb ht
  | starts => exact startSession_coherent hu
  | sends k hb _ hk ht => exact transmit_coherent hu hb hk ht
  | receives k r hb _ _ ht => exact receiveData_coherent hu hb ht
  | receiveFails e k he => exact recvFailed_coherent k hu he
  | writes w ht => exact hostWrite_coherent hu ht
  | resets => exact State.Coherent.congr resetIsCoherent rfl rfl rfl rfl rfl

/-- Settles O38: a step is a turn from a state with the same registers (`step_next`), and every turn keeps coherence. -/
theorem stepKeepsTheStateCoherent : Obligations.StepKeepsTheStateCoherent := by
  intro s t hs hstep
  obtain ⟨u, hsame, hturn⟩ := step_next hstep
  exact hturn.coherent (hsame.coherent hs)

end Sys2Proof.Machine
end

section
/-! PROOFS. An instruction run while nothing runs: one equation for each, and what all of them but CAPTURE leave alone
(30_encoding.md §7; 10_state.md §3). -/

namespace Sys2Proof.Machine

/-! ## exec while nothing runs (R98, R228; log 4) -/

section Idle

variable {s : State} (hb : s.status.busy = false)
include hb

theorem not_busy_of_idle : ¬ s.status.busy = true := by simp [hb]

theorem exec_ack_idle : exec .ack s = validateOperand s := if_neg (not_busy_of_idle hb)

theorem exec_img_idle : exec .img s = unpackOperand s := if_neg (not_busy_of_idle hb)

theorem exec_capture_idle : exec .capture s = .next s.startSession := if_neg (not_busy_of_idle hb)

theorem exec_cmdFrame_idle (p : List Byte) : exec (.cmdFrame p) s = encodePayload p s := if_neg (not_busy_of_idle hb)

theorem exec_stepInstr_idle (k : CaptureStep) : exec (stepInstr k) s = encodePayload (cmdPayload k) s :=
  (exec_stepInstr k s).trans (if_neg (not_busy_of_idle hb))

theorem exec_ackResp_idle (r : List Byte) : exec (.ackResp r) s = validateOperand (s.storeResponse r) :=
  if_neg (not_busy_of_idle hb)

theorem exec_imgResp_idle (h px t : List Byte) :
    exec (.imgResp h px t) s = unpackOperand (s.storeResponse (h ++ px ++ t)) :=
  if_neg (not_busy_of_idle hb)

end Idle

/-- exec of a raster answers only what the host observes. -/
theorem exec_sensorFrame_next {px : List Byte} {u t : State} (h : exec (.sensorFrame px) u = .next t) :
    t = u.observe (.raster px) := by
  simp only [exec, execSensorFrame] at h
  repeat' split at h
  all_goals cases h
  rfl

/-! ## What it leaves alone -/

/-- Nothing runs, and the configuration, the session, the trace and the transport's answers are as before. -/
structure State.Undisturbed (u t : State) : Prop where
  idle : t.status.busy = false
  lenient : t.lenient = u.lenient
  timeout : t.timeout = u.timeout
  sstate : t.sstate = u.sstate
  trace : t.trace = u.trace
  sendAnswers : t.sendAnswers = u.sendAnswers
  recvAnswers : t.recvAnswers = u.recvAnswers

theorem encodeOperand_undisturbed {u t : State} (h : encodeOperand u = .next t) : u.Undisturbed t := by
  rcases encodeOperand_next h with ⟨-, p, -, rfl⟩ | ⟨-, rfl⟩ <;> exact ⟨rfl, rfl, rfl, rfl, rfl, rfl, rfl⟩

theorem validateOperand_undisturbed {u t : State} (h : validateOperand u = .next t) : u.Undisturbed t := by
  rcases validateOperand_next h with ⟨-, rfl⟩ | ⟨-, rfl⟩ <;> exact ⟨rfl, rfl, rfl, rfl, rfl, rfl, rfl⟩

theorem unpackOperand_undisturbed {u t : State} (h : unpackOperand u = .next t) : u.Undisturbed t := by
  rcases unpackOperand_next h with ⟨-, out, -, rfl⟩ | ⟨-, rfl⟩ <;> exact ⟨rfl, rfl, rfl, rfl, rfl, rfl, rfl⟩

theorem encodePayload_undisturbed {p : List Byte} {u t : State} (h : encodePayload p u = .next t) :
    u.Undisturbed t := by
  obtain ⟨h1, h2, h3, h4, h5, h6, h7⟩ := encodeOperand_undisturbed h
  exact ⟨h1, h2, h3, h4, h5, h6, h7⟩

theorem State.Undisturbed.of_storeResponse {u t : State} {r : List Byte} (h : (u.storeResponse r).Undisturbed t) :
    u.Undisturbed t :=
  ⟨h.idle, h.lenient, h.timeout, h.sstate, h.trace, h.sendAnswers, h.recvAnswers⟩

/-- While nothing runs, every instruction but CAPTURE leaves the session alone. -/
theorem exec_idle_cases {i : Instr} {u t : State} (hb : u.status.busy = false) (h : exec i u = .next t) :
    (i = .capture ∧ t = u.startSession) ∨ u.Undisturbed t := by
  have frame : ∀ k, exec (stepInstr k) u = .next t → u.Undisturbed t := fun k hk =>
    encodePayload_undisturbed ((exec_stepInstr_idle hb k).symm.trans hk)
  cases i with
  | enc =>
    rw [exec_enc_idle hb] at h
    exact .inr (encodeOperand_undisturbed h)
  | ack =>
    rw [exec_ack_idle hb] at h
    exact .inr (validateOperand_undisturbed h)
  | img =>
    rw [exec_img_idle hb] at h
    exact .inr (unpackOperand_undisturbed h)
  | capture =>
    rw [exec_capture_idle hb] at h
    cases h
    exact .inl ⟨rfl, rfl⟩
  | cmdFrame p =>
    rw [exec_cmdFrame_idle hb] at h
    exact .inr (encodePayload_undisturbed h)
  | statusCheck => exact .inr (frame .one h)
  | prepareSensor => exact .inr (frame .two h)
  | triggerCapture => exact .inr (frame .three h)
  | requestImage => exact .inr (frame .four h)
  | ackResp r =>
    rw [exec_ackResp_idle hb] at h
    exact .inr (validateOperand_undisturbed h).of_storeResponse
  | imgResp a px b =>
    rw [exec_imgResp_idle hb] at h
    exact .inr (unpackOperand_undisturbed h).of_storeResponse
  | sensorFrame px =>
    obtain rfl := exec_sensorFrame_next h
    exact .inr ⟨hb, rfl, rfl, rfl, rfl, rfl, rfl⟩

end Sys2Proof.Machine
end

section
/-! PROOFS. The trace is an initial part of R163's list, as long as the position says (43_capture.md R163, R167). -/

namespace Sys2Proof.Machine

/-! ## The list of R163, position by position -/

theorem fullTrace_getElem?_send {q : SState} {k : CaptureStep} (T : BitVec 32) (h : sendStep? q = some k) :
    (fullTrace T)[callsMade q .send]? = some (.send (wireFrame k)) := by
  cases q <;> cases h <;> rfl

theorem fullTrace_getElem?_recv {q : SState} {k : CaptureStep} (T : BitVec 32) (h : recvStep? q = some k) :
    (fullTrace T)[callsMade q .recv]? = some (.recv (expectedLen k) T) := by
  cases q <;> cases h <;> rfl

theorem callsMade_sent {s : State} {k : CaptureStep} (h : sendStep? s.sstate = some k) :
    callsMade (s.sent k).sstate .recv = callsMade s.sstate .send + 1 := by
  cases hq : s.sstate <;> rw [hq] at h <;> cases h
  case captureTriggered => rfl
  all_goals
    rw [State.sent_sstate_of_ne _ (by decide), hq]
    rfl

theorem callsMade_nextState {q : SState} {k : CaptureStep} (h : recvStep? q = some k) (hk : k ≠ .four) :
    callsMade (nextState k) .send = callsMade q .recv + 1 := by
  cases q <;> cases h
  case imageRequested => exact absurd rfl hk
  all_goals rfl

/-! ## The invariant, by what a turn leaves -/

theorem State.SameRegisters.traceOk {s u : State} (h : s.SameRegisters u) (hs : s.TraceOk) : u.TraceOk := by
  obtain ⟨hinit, hrun⟩ := hs
  constructor <;> simp only [State.AtPosition, h.trace, h.status, h.sstate, h.phase, h.timeout] <;> assumption

theorem traceOk_of_idle {t : State} (hinit : ∃ T, t.trace <+: fullTrace T) (ht : t.status.busy = false) :
    t.TraceOk where
  initial := hinit
  running h := by cases ht.symm.trans h

theorem traceOk_of_running {t : State} (hat : t.AtPosition)
    (htr : t.trace = (fullTrace t.timeout).take (callsMade t.sstate t.phase)) : t.TraceOk where
  initial := ⟨t.timeout, htr ▸ List.take_prefix _ _⟩
  running _ := ⟨hat, htr⟩

theorem take_append_of_getElem? {l : List Call} {n : Nat} {c : Call} (h : l[n]? = some c) :
    l.take n ++ [c] = l.take (n + 1) := by
  rw [List.take_add_one, h]
  rfl

/-- The send of a step is the next call of R163's list. -/
theorem State.TraceOk.trace_send {s : State} {k : CaptureStep} (hs : s.TraceOk) (hb : s.status.busy = true)
    (hp : s.phase = .send) (hk : sendStep? s.sstate = some k) :
    s.trace ++ [Call.send (wireFrame k)] = (fullTrace s.timeout).take (callsMade s.sstate .send + 1) := by
  rw [(hs.running hb).2, hp]
  exact take_append_of_getElem? (fullTrace_getElem?_send _ hk)

/-- The receive of a step is the next call of R163's list. -/
theorem State.TraceOk.trace_recv {s : State} {k : CaptureStep} (hs : s.TraceOk) (hb : s.status.busy = true)
    (hp : s.phase = .recv) (hk : recvStep? s.sstate = some k) :
    s.trace ++ [Call.recv (expectedLen k) s.timeout] = (fullTrace s.timeout).take (callsMade s.sstate .recv + 1) := by
  rw [(hs.running hb).2, hp]
  exact take_append_of_getElem? (fullTrace_getElem?_recv _ hk)

theorem transmit_traceOk {k : CaptureStep} {s t : State} (hs : s.TraceOk) (hb : s.status.busy = true)
    (hp : s.phase = .send) (hk : sendStep? s.sstate = some k) (h : transmit k s = .next t) : t.TraceOk := by
  have htr := hs.trace_send hb hp hk
  cases ha : s.sendAnswers with
  | nil =>
    simp only [transmit, ha] at h
    cases h
    exact hs
  | cons a rest =>
    cases a with
    | ok =>
      rw [transmit_ok ha] at h
      cases h
      have hcalls : callsMade (((s.takeSend rest).callSend k).sent k).sstate .recv = callsMade s.sstate .send + 1 :=
        callsMade_sent hk
      have hrecv : recvStep? (((s.takeSend rest).callSend k).sent k).sstate = some k := recvStep?_sent hk
      refine traceOk_of_running (.inr ⟨State.sent_phase _ k, by rw [hrecv]; rfl⟩) ?_
      rw [State.sent_phase, hcalls, State.sent_trace, callSend_trace, State.sent_timeout]
      exact htr
    | error =>
      rw [transmit_error ha] at h
      cases h
      refine traceOk_of_idle ⟨s.timeout, ?_⟩ rfl
      rw [State.failStep_trace, callSend_trace]
      exact htr ▸ List.take_prefix _ _

theorem receiveData_traceOk {k : CaptureStep} {r : List Byte} {s t : State} (hs : s.TraceOk)
    (hb : s.status.busy = true) (hp : s.phase = .recv) (hk : recvStep? s.sstate = some k)
    (h : receiveData k r s = .next t) : t.TraceOk := by
  have htr := hs.trace_recv hb hp hk
  have hcall := (receiveData_calls h).1
  have hinit : ∃ T, t.trace <+: fullTrace T := ⟨s.timeout, by rw [hcall, htr]; exact List.take_prefix _ _⟩
  by_cases h4 : k = .four
  · subst h4
    rw [receiveData_image] at h
    split at h <;> (cases h; exact traceOk_of_idle hinit rfl)
  · rw [receiveData_ack h4] at h
    split at h <;> cases h
    · refine traceOk_of_running (.inl ⟨rfl, sendStep?_nextState h4⟩) (hcall.trans (htr.trans ?_))
      rw [State.advance_phase, State.advance_sstate, callsMade_nextState hk h4]
      rfl
    · exact traceOk_of_idle hinit rfl

theorem recvFailed_traceOk {s : State} (e : FceError) {k : CaptureStep} (hs : s.TraceOk) (hb : s.status.busy = true)
    (hp : s.phase = .recv) (hk : recvStep? s.sstate = some k) : (s.recvFailed e k).TraceOk := by
  refine traceOk_of_idle ⟨s.timeout, ?_⟩ rfl
  rw [State.recvFailed_trace, hs.trace_recv hb hp hk]
  exact List.take_prefix _ _

theorem hostWrite_traceOk {w : HostWrite} {s t : State} (hs : s.TraceOk) (h : hostWrite w s = .next t) :
    t.TraceOk := by
  rcases hostWrite_next h with rfl | ⟨hb, ⟨v, -, rfl⟩ | ⟨v, -, rfl⟩ | ⟨n, -, rfl⟩ | ⟨n, -, rfl⟩ |
    ⟨sp, a, bs, -, -, -, rfl⟩⟩
  · exact hs
  all_goals exact traceOk_of_idle hs.initial hb

/-- ENC, ACK and IMG leave the trace, and nothing running. -/
theorem State.Undisturbed.traceOk {s t : State} (h : s.Undisturbed t) (hs : s.TraceOk) : t.TraceOk :=
  traceOk_of_idle (h.trace ▸ hs.initial) h.idle

/-- Settles O39: the reset trace is empty. -/
theorem resetTraceIsInitial : Obligations.ResetTraceIsInitial :=
  traceOk_of_idle ⟨0, List.nil_prefix⟩ rfl

theorem Turned.traceOk {u t : State} (h : Turned u t) (hu : u.TraceOk) : t.TraceOk := by
  cases h with
  | stays => exact hu
  | observes o => exact ⟨hu.initial, hu.running⟩
  | encodes _ ht => exact (encodeOperand_undisturbed ht).traceOk hu
  | encodesPayload p _ _ ht => exact (encodePayload_undisturbed ht).traceOk hu
  | validates _ ht => exact (validateOperand_undisturbed ht).traceOk hu
  | validatesResponse r _ ht => exact (validateOperand_undisturbed ht).of_storeResponse.traceOk hu
  | unpacks _ ht => exact (unpackOperand_undisturbed ht).traceOk hu
  | unpacksResponse r _ ht => exact (unpackOperand_undisturbed ht).of_storeResponse.traceOk hu
  | starts => exact traceOk_of_running (.inl ⟨rfl, rfl⟩) rfl
  | sends k hb hp hk ht => exact transmit_traceOk hu hb hp hk ht
  | receives k r hb hp hk ht => exact receiveData_traceOk hu hb hp hk ht
  | receiveFails e k _ hb hp hk => exact recvFailed_traceOk e hu hb hp hk
  | writes w ht => exact hostWrite_traceOk hu ht
  | resets => exact traceOk_of_idle ⟨0, List.nil_prefix⟩ rfl

/-- Settles O40: each call of a running session is the next one of R163's list, and nothing else touches the trace but
the start of a session and reset, which empty it. -/
theorem stepKeepsTheTraceInitial : Obligations.StepKeepsTheTraceInitial := by
  intro s t hs hstep
  obtain ⟨u, hsame, hturn⟩ := step_next hstep
  exact hturn.traceOk (hsame.traceOk hs)

end Sys2Proof.Machine
end

section
/-! PROOFS. The turn of each host event, and what a step can change: the session state, the configuration, the trace and
the transport's answers (10_state.md §3, §5; 43_capture.md §3; 70_reset_and_hazards.md §3). -/

namespace Sys2Proof.Machine

/-! ## The turn of each host event (log 6) -/

section Events

variable {s : State} {rest : List HostEvent}

theorem step_issue_busy {f : Format} {bytes : List Byte} (h : s.host = .issue f bytes :: rest)
    (hb : s.status.busy = true) : step s = .refused .busyCommand := by
  simp only [step_eq, fetch, h, hb, if_true, runFetched]

theorem step_issue {f : Format} {bytes : List Byte} (h : s.host = .issue f bytes :: rest)
    (hb : s.status.busy = false) : step s = runFetched (fetchWord f bytes (s.afterEvent rest)) := by
  simp only [step_eq, fetch, h, hb, Bool.false_eq_true, if_false]

theorem run_fetchWord {f : Format} {bytes : List Byte} {i : Instr} (h : decode f bytes = .ok i) (u : State) :
    runFetched (fetchWord f bytes u) = exec i u := by
  simp only [fetchWord, h, runFetched]

theorem step_handOver (h : s.host = .handOver :: rest) : step s = runFetched (fetchRaster (s.afterEvent rest)) := by
  rw [step_eq, fetch, h]

theorem step_write {w : HostWrite} (h : s.host = .write w :: rest) : step s = hostWrite w (s.afterEvent rest) := by
  rw [step_eq, fetch, h]
  rfl

theorem step_read {r : HostRead} (h : s.host = .read r :: rest) : step s = hostRead r { s with host := rest } := by
  rw [step_eq, fetch, h]
  rfl

theorem step_useTransport (h : s.host = .useTransport :: rest) : step s = transportUsed (s.afterEvent rest) := by
  rw [step_eq, fetch, h]
  rfl

theorem step_reset (h : s.host = .reset :: rest) : step s = hostReset (s.afterEvent rest) := by
  rw [step_eq, fetch, h]
  rfl

/-- While nothing runs the sequencer takes no step. -/
theorem sequencerTurn_idle (hb : s.status.busy = false) : sequencerTurn s = .error (.next s) := by
  simp only [sequencerTurn, hb, Bool.false_eq_true, if_false]

/-! ## What the step was, by the event -/

/-- What a step from `s` that answers a next state was. -/
inductive Stepped (s : State) : State → Prop where
  /-- Only events, observations and the model's counter. -/
  | quiet {t : State} (h : s.SameRegisters t) (hs : t.sendAnswers = s.sendAnswers)
      (hr : t.recvAnswers = s.recvAnswers) : Stepped s t
  /-- A turn of the sequencer of a running CAPTURE. -/
  | sequencer {u t : State} (h : List HostEvent) (hm : s.SequencerMoves h) (hb : s.status.busy = true)
      (hu : s.SameRegisters u) (ht : Turned u t) : Stepped s t
  /-- The word the host issued. -/
  | issued {t : State} {f : Format} {bytes : List Byte} {rest : List HostEvent} {i : Instr}
      (hh : s.host = .issue f bytes :: rest) (hb : s.status.busy = false) (hd : decode f bytes = .ok i)
      (ht : exec i (s.afterEvent rest) = .next t) : Stepped s t
  | written {t : State} {w : HostWrite} {rest : List HostEvent} (hh : s.host = .write w :: rest)
      (ht : hostWrite w (s.afterEvent rest) = .next t) : Stepped s t
  | reset {rest : List HostEvent} (hh : s.host = .reset :: rest) (hb : s.status.busy = false) :
      Stepped s (s.afterEvent rest).resetRegisters

/-- Where the sequencer has the turn, a step is one of its turns, or quiet where nothing runs. -/
theorem stepped_of_sequencerTurn {t : State} {h : List HostEvent} (hm : s.SequencerMoves h)
    (ht : runFetched (sequencerTurn { s with host := h }) = .next t) : Stepped s t := by
  cases hb : s.status.busy with
  | false =>
    rw [sequencerTurn_idle (s := { s with host := h }) hb] at ht
    cases ht
    exact .quiet (s.sameRegisters_outside _ _ _ _ _) rfl rfl
  | true =>
    obtain ⟨u, hu, hturn⟩ := sequencerTurn_next ht
    exact .sequencer h hm hb ⟨hu.lenient, hu.timeout, hu.cmd, hu.status, hu.sstate, hu.phase, hu.plen, hu.txlen,
      hu.rxlen, hu.mem, hu.trace⟩ hturn

theorem eq_sensorFrame_of_decode {px : List Byte} {i : Instr} (h : decode .sf px = .ok i) : i = .sensorFrame px := by
  simp only [decode, decodeSensorFrame] at h
  split at h <;> cases h
  rfl

theorem fetchRaster_next {u t : State} (h : runFetched (fetchRaster u) = .next t) : ∃ o, t = u.observe o := by
  unfold fetchRaster at h
  split at h
  · cases h
  split at h
  · cases h
  split at h
  · cases h
  rename_i px _
  cases hd : decode .sf px with
  | error e => simp only [fetchWord, hd, runFetched] at h; cases h
  | ok i =>
    obtain rfl := eq_sensorFrame_of_decode hd
    rw [run_fetchWord hd] at h
    exact ⟨_, exec_sensorFrame_next h⟩

/-- INVERSION OF A STEP, BY THE EVENT: beside `step_next`, which event the step consumed. -/
theorem step_cases {t : State} (h : step s = .next t) : Stepped s t := by
  have hafter : ∀ rest, s.SameRegisters (s.afterEvent rest) := fun _ => s.sameRegisters_outside _ _ _ _ _
  have hquiet : ∀ rest (o : Observation), s.SameRegisters ((s.afterEvent rest).observe o) :=
    fun _ _ => s.sameRegisters_outside _ _ _ _ _
  cases hh : s.host with
  | nil =>
    rw [step_eq, fetch, hh] at h
    exact stepped_of_sequencerTurn (.inl ⟨.inl hh, rfl⟩) h
  | cons ev rest =>
    cases ev with
    | await =>
      rw [step_eq, fetch, hh] at h
      simp only at h
      split at h
      · exact stepped_of_sequencerTurn (.inl ⟨.inr ⟨rest, hh⟩, rfl⟩) h
      · cases h
        exact .quiet (hafter rest) rfl rfl
    | turn =>
      rw [step_eq, fetch, hh] at h
      exact stepped_of_sequencerTurn (.inr hh) h
    | issue f bytes =>
      cases hb : s.status.busy with
      | true => rw [step_issue_busy hh hb] at h; cases h
      | false =>
        rw [step_issue hh hb] at h
        cases hd : decode f bytes with
        | error e => simp only [fetchWord, hd, runFetched] at h; cases h
        | ok i =>
          rw [run_fetchWord hd] at h
          exact .issued hh hb hd h
    | handOver =>
      rw [step_handOver hh] at h
      obtain ⟨o, rfl⟩ := fetchRaster_next h
      exact .quiet (hquiet rest o) rfl rfl
    | write w =>
      rw [step_write hh] at h
      exact .written hh h
    | read r =>
      rw [step_read hh] at h
      obtain ⟨o, rfl⟩ := hostRead_next h
      exact .quiet (s.sameRegisters_outside _ _ _ _ _) rfl rfl
    | useTransport =>
      rw [step_useTransport hh, transportUsed] at h
      split at h <;> cases h
      exact .quiet (hafter rest) rfl rfl
    | reset =>
      rw [step_reset hh, hostReset] at h
      split at h
      · cases h
      rename_i hb
      split at h <;> cases h
      exact .reset hh (Bool.eq_false_of_not_eq_true hb)

end Events

/-! ## What each event can change -/

/-- A CAPTURE is started by an operation code only (R85). -/
theorem format_of_decode_capture {f : Format} {bytes : List Byte} (h : decode f bytes = .ok .capture) : f = .op :=
  (encodeOfDecodeIsTheWord f bytes .capture h).1.symm

/-- A host write leaves the session, the trace and the transport's answers. -/
theorem hostWrite_session {w : HostWrite} {u t : State} (h : hostWrite w u = .next t) :
    t.sstate = u.sstate ∧ t.trace = u.trace ∧ t.sendAnswers = u.sendAnswers ∧ t.recvAnswers = u.recvAnswers := by
  rcases hostWrite_next h with rfl | ⟨-, ⟨v, -, rfl⟩ | ⟨v, -, rfl⟩ | ⟨n, -, rfl⟩ | ⟨n, -, rfl⟩ |
    ⟨sp, a, bs, -, -, -, rfl⟩⟩ <;> exact ⟨rfl, rfl, rfl, rfl⟩

/-- Settles O41: only the sequencer of a running CAPTURE takes an answer or records a call. -/
theorem noCallIsMadeWhileNothingRuns : Obligations.NoCallIsMadeWhileNothingRuns := by
  intro s t hb h
  cases step_cases h with
  | quiet h hs hr => exact ⟨hs, hr, .inl h.trace⟩
  | sequencer _ _ hbusy => cases hb.symm.trans hbusy
  | issued hh _ hd ht =>
    rcases exec_idle_cases (by exact hb) ht with ⟨rfl, rfl⟩ | hu
    · obtain rfl := format_of_decode_capture hd
      exact ⟨rfl, rfl, .inr ⟨rfl, .inl ⟨_, _, hh, hd⟩⟩⟩
    · exact ⟨hu.sendAnswers, hu.recvAnswers, .inl hu.trace⟩
  | written _ ht =>
    obtain ⟨-, htrace, hs, hr⟩ := hostWrite_session ht
    exact ⟨hs, hr, .inl htrace⟩
  | reset hh => exact ⟨rfl, rfl, .inr ⟨rfl, .inr ⟨_, hh⟩⟩⟩

/-- Settles O49: of the steps that are no turn of the sequencer, only the start of a CAPTURE and reset write
`SSTATE`. -/
theorem sessionStateChangesOnlyByCapture : Obligations.SessionStateChangesOnlyByCapture := by
  intro s t h hne
  cases step_cases h with
  | quiet h => exact absurd h.sstate hne
  | sequencer m hm hb => exact .inl ⟨hb, m, hm⟩
  | issued hh hb hd ht =>
    rcases exec_idle_cases (by exact hb) ht with ⟨rfl, rfl⟩ | hu
    · obtain rfl := format_of_decode_capture hd
      exact .inr ⟨rfl, .inl ⟨_, _, hh, hd⟩⟩
    · exact absurd hu.sstate hne
  | written _ ht => exact absurd (hostWrite_session ht).1 hne
  | reset hh => exact .inr ⟨rfl, .inr ⟨_, hh⟩⟩

/-! ## The configuration -/

theorem transmit_sameConfig {k : CaptureStep} {u t : State} (h : transmit k u = .next t) : u.SameConfig t := by
  unfold transmit at h
  split at h <;> cases h
  · exact ⟨rfl, rfl⟩
  · exact ⟨by simp, by simp⟩
  · exact ⟨rfl, rfl⟩

theorem receiveData_sameConfig {k : CaptureStep} {r : List Byte} {u t : State} (h : receiveData k r u = .next t) :
    u.SameConfig t := by
  by_cases hk : k = .four
  · subst hk
    rw [receiveData_image] at h
    split at h <;> (cases h; exact ⟨rfl, rfl⟩)
  · rw [receiveData_ack hk] at h
    split at h <;> (cases h; exact ⟨rfl, rfl⟩)

/-- A turn taken while a CAPTURE runs leaves the configuration (R234). -/
theorem Turned.sameConfig {u t : State} (h : Turned u t) (hb : u.status.busy = true) : u.SameConfig t := by
  cases h with
  | stays => exact ⟨rfl, rfl⟩
  | observes o => exact ⟨rfl, rfl⟩
  | sends k _ _ _ ht => exact transmit_sameConfig ht
  | receives k r _ _ _ ht => exact receiveData_sameConfig ht
  | receiveFails e k => exact ⟨rfl, rfl⟩
  | writes w ht =>
    rcases hostWrite_next ht with rfl | ⟨hidle, -⟩
    · exact ⟨rfl, rfl⟩
    · cases hb.symm.trans hidle
  | encodes hidle | encodesPayload _ hidle | validates hidle | validatesResponse _ hidle | unpacks hidle
  | unpacksResponse _ hidle | starts hidle | resets hidle => cases hb.symm.trans hidle

theorem State.SameConfig.not_changed {s t : State} (h : s.SameConfig t) :
    ¬ (t.lenient ≠ s.lenient ∨ t.timeout ≠ s.timeout) := by
  rintro (hl | ht)
  · exact hl h.1
  · exact ht h.2

/-- Settles O50: a running CAPTURE reads the configuration and never writes it, and of the events only the two writes
and reset do. -/
theorem configurationChangesOnlyByTheHost : Obligations.ConfigurationChangesOnlyByTheHost := by
  intro s t h hne
  cases step_cases h with
  | quiet h => exact absurd hne (State.SameConfig.not_changed ⟨h.lenient, h.timeout⟩)
  | sequencer _ _ hb hu ht =>
    obtain ⟨hl, htime⟩ := ht.sameConfig (hu.status ▸ hb)
    exact absurd hne (State.SameConfig.not_changed ⟨hl.trans hu.lenient, htime.trans hu.timeout⟩)
  | issued _ hb _ ht =>
    rcases exec_idle_cases (by exact hb) ht with ⟨-, rfl⟩ | hu
    · exact absurd hne (State.SameConfig.not_changed ⟨rfl, rfl⟩)
    · exact absurd hne (State.SameConfig.not_changed ⟨hu.lenient, hu.timeout⟩)
  | written hh ht =>
    rcases hostWrite_next ht with rfl | ⟨hb, ⟨v, rfl, rfl⟩ | ⟨v, rfl, rfl⟩ | ⟨n, -, rfl⟩ | ⟨n, -, rfl⟩ |
      ⟨sp, a, bs, -, -, -, rfl⟩⟩
    case inr.inl => exact ⟨hb, .inl ⟨v, _, hh, rfl, rfl⟩⟩
    case inr.inr.inl => exact ⟨hb, .inr (.inl ⟨v, _, hh, rfl, rfl⟩)⟩
    all_goals exact absurd hne (State.SameConfig.not_changed ⟨rfl, rfl⟩)
  | reset hh hb => exact ⟨hb, .inr (.inr ⟨_, hh⟩)⟩

end Sys2Proof.Machine
end

section
/-! PROOFS. What a step does with each event of the host: the word it runs, a read, a write, a reset, and what it
refuses (10_state.md §1 to §7; 20_memory.md §1, §3, §4; 70_reset_and_hazards.md §1, §3). -/

namespace Sys2Proof.Machine

/-! ## The word a step runs -/

/-- Settles O42: the event is the fetch (`step_issue`), the decoded word its instruction. -/
theorem stepRunsTheIssuedWord : Obligations.StepRunsTheIssuedWord := by
  intro s f bytes rest i h hb hd
  rw [step_issue h hb, run_fetchWord hd]
  rfl

theorem sendStep?_eq_some_iff (q : SState) (k : CaptureStep) :
    sendStep? q = some k ↔ ∃ q', (q, k, q') ∈ sendRows := by
  constructor
  · intro h
    cases q <;> cases h
    exacts [⟨.idle, by decide⟩, ⟨.statusChecked, by decide⟩, ⟨.sensorPrepared, by decide⟩,
      ⟨.imageRequested, by decide⟩]
  · rintro ⟨q', h⟩
    exact (sendRows_spec h { State.reset with sstate := q } rfl).1

theorem recvStep?_eq_some_iff (q : SState) (k : CaptureStep) : recvStep? q = some k ↔ (q, k) ∈ recvRows := by
  constructor
  · intro h
    cases q <;> cases h <;> decide
  · exact fun h => (recvRows_spec h).1

theorem decode_raster {px : List Byte} (h : px.length = 10240) : decode .sf px = .ok (.sensorFrame px) :=
  if_pos h

/-- The raster handed over is run as a word (R136, R227). -/
theorem run_fetchRaster {u : State} {px : List Byte} (hb : u.status.busy = false) (hv : u.status.imgValid = true)
    (hr : u.mem.read? .imgbuf 0 10240 = some px) :
    runFetched (fetchRaster u) = exec (.sensorFrame px) u := by
  simp only [fetchRaster, hb, hv, Bool.false_eq_true, Bool.true_eq_false, if_false, Config.rasterLen, hr]
  exact run_fetchWord (decode_raster (Memory.read?_length hr)) u

/-- Settles O43: at a send position the step is the send half, which is exec of the frame's row; at a receive position
the receive half, which is exec of the response's row; the hand-over runs the raster read. -/
theorem stepRunsTheWordOnTheWire : Obligations.StepRunsTheWordOnTheWire := by
  refine ⟨?_, ?_, ?_⟩
  · intro s h q q' k hm hb hp hrow hq ha
    have hk := (sendRows_spec hrow s hq).1
    refine ⟨frameOf_cmdPayload k ▸ decode_cmdPayload k, ?_⟩
    rw [step_moves_sends hm hb hp hk ha, exec_stepInstr]
    exact (runFrame_at (s := ({ s with host := h } : State).tick) hb hp hk).symm
  · intro s h q k r rest i hm hb hp hrow hq ha hd
    have hk : recvStep? s.sstate = some k := hq ▸ (recvRows_spec hrow).1
    have hfmt : responseFormat k = if k = .four then .ir else .ar := by cases k <;> rfl
    rw [step_moves_receives hm hb hp hk ha]
    exact (exec_response (u := ({ s with host := h } : State).tick.takeRecv rest) (hfmt ▸ hd) hb hp hk).symm
  · intro s rest px h hb hv hr
    refine ⟨decode_raster (Memory.read?_length hr), ?_⟩
    rw [step_handOver h]
    exact run_fetchRaster hb hv hr

/-! ## What is refused while an operation runs -/

section Busy

variable {s : State} (hb : s.status.busy = true)
include hb

theorem hostRead_buffer_busy (sp : Space) (a n : Nat) : hostRead (.buffer sp a n) s = .refused .busyAccess := by
  simp only [hostRead, hostReadBuffer, hb, if_true]

theorem hostWrite_operand_busy {sp : Space} (hsp : sp = .pbuf ∨ sp = .rxbuf) (a : Nat) (bs : List Byte) :
    hostWrite (.buffer sp a bs) s = .refused .busyAccess := by
  rcases hsp with rfl | rfl <;> simp only [hostWrite, hostWriteBuffer, hb, if_true]

theorem fetchRaster_busy : runFetched (fetchRaster s) = .refused .busyAccess := by
  simp only [fetchRaster, hb, if_true, runFetched]

theorem runFrame_out_of_turn {k : CaptureStep} (h : ¬ (s.phase = .send ∧ sendStep? s.sstate = some k)) :
    runFrame k s = .refused .notAtThisStep := by
  simp only [runFrame, hb, if_true, h, if_false]

end Busy

theorem receiveOutstanding_out_of_turn {s : State} (h : ¬ (s.phase = .recv ∧ ∃ k, recvStep? s.sstate = some k))
    (r : List Byte) : receiveOutstanding r s = .refused .noReceiveOutstanding := by
  unfold receiveOutstanding
  split
  · rename_i k hp hk
    exact absurd ⟨hp, k, hk⟩ h
  · rfl
  · rfl

/-- Settles O44: each of these events is refused by its own check of `BUSY`, and so is each operation code. -/
theorem hostIsRefusedWhileBusy : Obligations.HostIsRefusedWhileBusy := by
  intro s rest hb
  have hwrite : ∀ w, hostWrite w (s.afterEvent rest) = .refused .busyAccess →
      s.host = .write w :: rest → step s = .refused .busyAccess := fun w hw h => (step_write h).trans hw
  have hread : ∀ r, hostRead r { s with host := rest } = .refused .busyAccess →
      s.host = .read r :: rest → step s = .refused .busyAccess := fun r hr h => (step_read h).trans hr
  have hbuffer : ∀ sp a n, s.host = .read (.buffer sp a n) :: rest → step s = .refused .busyAccess :=
    fun sp a n => hread _ (hostRead_buffer_busy (s := { s with host := rest }) hb sp a n)
  refine ⟨fun _ _ h => step_issue_busy h hb, fun v => hwrite _ (if_pos hb), fun v => hwrite _ (if_pos hb),
    fun n => hwrite _ (if_pos hb), fun n => hwrite _ (if_pos hb),
    fun a bs => hwrite _ (hostWrite_operand_busy (s := s.afterEvent rest) hb (.inl rfl) a bs),
    fun a bs => hwrite _ (hostWrite_operand_busy (s := s.afterEvent rest) hb (.inr rfl) a bs),
    hread _ (if_pos hb), hbuffer .txbuf, hbuffer .imgbuf,
    fun h => (step_handOver h).trans (fetchRaster_busy hb),
    hread _ (if_pos hb), hread _ (if_pos hb), hread _ (if_pos hb), hbuffer .pbuf, hbuffer .rxbuf,
    if_pos hb, if_pos hb, if_pos hb, if_pos hb⟩

/-- Settles O45: a frame is sent and a response taken only at the rows of R161. -/
theorem framesAndResponsesOutOfTurnAreRefused : Obligations.FramesAndResponsesOutOfTurnAreRefused := by
  intro s hb
  refine ⟨fun p => if_pos hb, fun k h => ?_, fun h => ?_⟩
  · rw [← sendStep?_eq_some_iff] at h
    rw [exec_stepInstr, runFrame_out_of_turn hb h]
  · simp only [← recvStep?_eq_some_iff] at h
    exact ⟨fun r => (if_pos hb).trans (receiveOutstanding_out_of_turn h r),
      fun a px tr => (if_pos hb).trans (receiveOutstanding_out_of_turn h _)⟩

/-- Settles O46: only `BUSY` decides. -/
theorem otherTransportUseIsRefusedDuringCapture : Obligations.OtherTransportUseIsRefusedDuringCapture := by
  intro s rest h
  rw [step_useTransport h]
  exact ⟨fun hb => if_pos hb, fun hb => if_neg (not_busy_of_idle hb)⟩

/-! ## Reads of results and bytes that are absent (R55) -/

theorem hostRead_txlen_absent {s : State} (hb : s.status.busy = false) (hv : s.status.txValid = false) :
    hostRead (.reg .txlen) s = .refused .noFrame := by
  simp only [hostRead, hostReadReg, hb, hv, Bool.false_eq_true, if_false]

/-- Inside its bounds, a read of a buffer is decided by that buffer's own rule. -/
theorem holds_eq_true {sp : Space} {a n : Nat} (h : a + n ≤ sp.size) : sp.holds a n = true := decide_eq_true h

theorem hostRead_txbuf_absent {s : State} (hb : s.status.busy = false) (hv : s.status.txValid = false) {a n : Nat}
    (h : a + n ≤ 259) : hostRead (.buffer .txbuf a n) s = .refused .noFrame := by
  simp only [hostRead, hostReadBuffer, hb, hv, holds_eq_true (sp := .txbuf) h, Bool.false_eq_true,
    Bool.true_eq_false, if_false, if_true]

theorem hostRead_imgbuf_absent {s : State} (hb : s.status.busy = false) (hv : s.status.imgValid = false) {a n : Nat}
    (h : a + n ≤ 10240) : hostRead (.buffer .imgbuf a n) s = .refused .noRaster := by
  simp only [hostRead, hostReadBuffer, hb, hv, holds_eq_true (sp := .imgbuf) h, Bool.false_eq_true,
    Bool.true_eq_false, if_false, if_true]

/-- The host may read `PBUF` and `RXBUF` while nothing runs (log 14). -/
theorem hostRead_operand {s : State} {sp : Space} (hsp : sp = .pbuf ∨ sp = .rxbuf) (hb : s.status.busy = false)
    {a n : Nat} (h : a + n ≤ sp.size) : hostRead (.buffer sp a n) s = readBytes sp a n s := by
  rcases hsp with rfl | rfl <;>
    simp only [hostRead, hostReadBuffer, hb, holds_eq_true h, Bool.false_eq_true, Bool.true_eq_false, if_false]

theorem readBytes_some {s : State} {sp : Space} {a n : Nat} {bs : List Byte} (h : s.mem.read? sp a n = some bs) :
    readBytes sp a n s = .next (s.observe (.bytes bs)) := by
  simp only [readBytes, h]

/-- A read that covers a byte without a value faults (R55). -/
theorem readBytes_fault {s : State} (hm : s.mem.wf) {sp : Space} {a n x : Nat} (h1 : a ≤ x) (h2 : x < a + n)
    (h : s.mem.byte? sp x = none) : readBytes sp a n s = .fault (.noValue sp) := by
  simp only [readBytes, Memory.read?_none hm h1 h2 h]

theorem hostRead_operand_fault {s : State} (hm : s.mem.wf) {sp : Space} (hsp : sp = .pbuf ∨ sp = .rxbuf)
    (hb : s.status.busy = false) {a n x : Nat} (h : a + n ≤ sp.size) (h1 : a ≤ x) (h2 : x < a + n)
    (hx : s.mem.byte? sp x = none) : hostRead (.buffer sp a n) s = .fault (.noValue sp) := by
  rw [hostRead_operand hsp hb h, readBytes_fault hm h1 h2 hx]

/-- Settles O55: the valid bit guards a result, and a read needs every byte it covers. -/
theorem absentValuesAreNotRead : Obligations.AbsentValuesAreNotRead := by
  intro s rest a n hb
  refine ⟨fun h hv => ?_, fun h hv hfit => ?_, fun h hv hfit => ?_, fun x hm h hfit h1 h2 hx => ?_,
    fun x hm h hfit h1 h2 hx => ?_⟩ <;> rw [step_read h]
  · exact hostRead_txlen_absent hb hv
  · exact hostRead_txbuf_absent (s := { s with host := rest }) hb hv hfit
  · exact hostRead_imgbuf_absent (s := { s with host := rest }) hb hv hfit
  · exact hostRead_operand_fault (s := { s with host := rest }) hm (.inl rfl) hb hfit h1 h2 hx
  · exact hostRead_operand_fault (s := { s with host := rest }) hm (.inr rfl) hb hfit h1 h2 hx

/-! ## Reset -/

theorem blank_byte? (sp : Space) (a : Nat) : Memory.blank.byte? sp a = none := by cases sp <;> rfl

/-- Settles O47: the reset state field by field, and the reads of it by the rules for absent values. -/
theorem resetLeavesAFreshSession : Obligations.ResetLeavesAFreshSession := by
  have hunwritten : ∀ (sp : Space), (sp = .pbuf ∨ sp = .rxbuf) → ∀ rest a n, 1 ≤ n → a + n ≤ sp.size →
      step { State.reset with host := .read (.buffer sp a n) :: rest } = .fault (.noValue sp) :=
    fun sp hsp rest a n hn hfit => (step_read rfl).trans (hostRead_operand_fault
      (s := { State.reset with host := rest }) Memory.wf_blank hsp rfl hfit (Nat.le_refl a) (by omega) (blank_byte? sp a))
  exact ⟨rfl, rfl, rfl, rfl, rfl, rfl, rfl, rfl, blank_byte?, rfl,
    fun rest => (step_read rfl).trans (hostRead_txlen_absent rfl rfl),
    fun rest a n hfit => (step_read rfl).trans (hostRead_txbuf_absent rfl rfl hfit),
    fun rest a n hfit => (step_read rfl).trans (hostRead_imgbuf_absent rfl rfl hfit),
    hunwritten .pbuf (.inl rfl), hunwritten .rxbuf (.inr rfl)⟩

/-- Settles O48: `BUSY` and `RESULT` decide, and what is left is the reset state with the agents outside. -/
theorem resetActsOnlyAtLaunch : Obligations.ResetActsOnlyAtLaunch := by
  intro s rest h
  rw [step_reset h]
  refine ⟨fun hb => if_pos hb, fun hb hr => ?_, fun hb hr => ⟨(s.afterEvent rest).resetRegisters, ?_, ?_⟩⟩
  · simp only [hostReset, State.afterEvent_status, hb, hr, Bool.false_eq_true, if_false]
  · simp only [hostReset, State.afterEvent_status, hb, hr, Bool.false_eq_true, if_false, if_true]
  · exact ⟨rfl, rfl, rfl, rfl, rfl, rfl, blank_byte?, rfl, rfl, rfl, rfl, rfl⟩

/-! ## Error entry -/

/-- Settles O51, operation by operation. -/
theorem errorEntryWritesStatusOnly : Obligations.ErrorEntryWritesStatusOnly := by
  intro s op e k
  cases op <;> exact ⟨rfl, rfl, rfl, rfl, rfl, rfl, rfl, rfl, rfl, rfl, rfl, rfl, ⟨rfl, rfl⟩, rfl, rfl, rfl, rfl, rfl⟩

/-! ## Writes -/

/-- A write to a read-only register, or inside a buffer the host cannot write, is ignored (R32; log 11). -/
theorem hostWrite_readOnly_buffer {s : State} {sp : Space} (hsp : sp = .txbuf ∨ sp = .imgbuf) {a : Nat}
    {bs : List Byte} (h : a + bs.length ≤ sp.size) : hostWrite (.buffer sp a bs) s = .next s := by
  rcases hsp with rfl | rfl <;> simp only [hostWrite, hostWriteBuffer, holds_eq_true h, if_true]

theorem hostWrite_operand {s : State} {sp : Space} (hsp : sp = .pbuf ∨ sp = .rxbuf) (hb : s.status.busy = false)
    {a : Nat} {bs : List Byte} (h : a + bs.length ≤ sp.size) :
    hostWrite (.buffer sp a bs) s = .next { s with mem := s.mem.write sp a bs } := by
  rcases hsp with rfl | rfl <;>
    simp only [hostWrite, hostWriteBuffer, hb, holds_eq_true h, Bool.false_eq_true, if_false, if_true]

theorem hostWrite_out_of_bounds {s : State} {sp : Space}
    (hsp : sp = .txbuf ∨ sp = .imgbuf ∨ s.status.busy = false) {a : Nat} {bs : List Byte}
    (h : sp.size < a + bs.length) : hostWrite (.buffer sp a bs) s = .fault (.outOfBounds sp) := by
  have hout : sp.holds a bs.length = false := decide_eq_false (by omega)
  cases sp with
  | txbuf | imgbuf => simp only [hostWrite, hostWriteBuffer, hout, Bool.false_eq_true, if_false]
  | pbuf | rxbuf =>
    have hb : s.status.busy = false := by simpa using hsp
    simp only [hostWrite, hostWriteBuffer, hb, hout, Bool.false_eq_true, if_false]

theorem Memory.byte?_write (m : Memory) (sp : Space) (a : Nat) (vs : List Byte) (sq : Space) (x : Nat) :
    (m.write sp a vs).byte? sq x =
      if sq = sp ∧ a ≤ x ∧ x < a + vs.length then vs[x - a]? else m.byte? sq x := by
  by_cases hs : sq = sp
  · subst hs
    rw [Memory.byte?_write_same]
    simp only [true_and]
  · rw [Memory.byte?_write_other _ _ _ _ hs, if_neg fun h => hs h.1]

/-- Settles O52: each write by its own rule; a write to a buffer is placed by its bounds. -/
theorem hostWritesTakeEffect : Obligations.HostWritesTakeEffect := by
  intro s rest w h
  rw [step_write h]
  refine ⟨?_, ?_, ?_, ?_, ?_, ?_, ?_, ?_, ?_, ?_⟩
  · rintro v rfl hb
    exact if_neg (not_busy_of_idle hb)
  · rintro v rfl hb
    exact if_neg (not_busy_of_idle hb)
  · rintro n rfl hb
    exact ⟨saturate9 n, if_neg (not_busy_of_idle hb), saturate9_toNat n⟩
  · rintro n rfl hb
    exact ⟨saturate14 n, if_neg (not_busy_of_idle hb), saturate14_toNat n⟩
  · rintro sp a bs rfl hsp hb hfit
    exact ⟨s.mem.write sp a bs, hostWrite_operand (s := s.afterEvent rest) hsp hb hfit,
      Memory.byte?_write s.mem sp a bs⟩
  · rintro v rfl
    rfl
  · rintro v rfl
    rfl
  · rintro n rfl
    rfl
  · rintro sp a bs rfl hsp hfit
    exact hostWrite_readOnly_buffer hsp hfit
  · rintro sp a bs rfl hsp hout
    exact hostWrite_out_of_bounds (s := s.afterEvent rest) hsp hout

/-- Settles O57: a read of what was written is the bytes written, by index, since in canonical form reading several
bytes is reading each. -/
theorem bufferWritesReadBackAndAreDisjoint : Obligations.BufferWritesReadBackAndAreDisjoint := by
  intro m sp a vs hm hfit
  have hwf := Memory.wf_write hm hfit
  refine ⟨?_, fun x hx => ?_, fun sq b n hsq => Memory.read?_write_other m a vs b n hsq, hwf⟩
  · refine (bytes?_eq_some_iff (Memory.buffer_rising hwf sp)).mpr ⟨rfl, fun i hi => ?_⟩
    have hbyte := Memory.byte?_write_same m sp a vs (a + i)
    rw [if_pos ⟨by omega, by omega⟩, Nat.add_sub_cancel_left] at hbyte
    exact hbyte
  · rw [Memory.byte?_write_same, if_neg (by omega)]

/-! ## Reads -/

/-- The next states of an outcome, changed by `f`. -/
def mapNext (f : State → State) : StepOutcome → StepOutcome
  | .next s => .next (f s)
  | .fault e => .fault e
  | .refused e => .refused e

theorem mapNext_ite (f : State → State) (c : Prop) [Decidable c] (x y : StepOutcome) :
    mapNext f (if c then x else y) = if c then mapNext f x else mapNext f y := by
  split <;> rfl

/-- What a read answers does not depend on the pending events, nor on what was observed before (R57). -/
theorem hostRead_outside (r : HostRead) (u : State) (ho : List HostEvent) (ob : Option Observation) :
    hostRead r { u with host := ho, observed := ob } = mapNext (fun t => { t with host := ho }) (hostRead r u) := by
  have bytes : ∀ sp a n, readBytes sp a n { u with host := ho, observed := ob } =
      mapNext (fun t => { t with host := ho }) (readBytes sp a n u) := by
    intro sp a n
    simp only [readBytes]
    cases u.mem.read? sp a n <;> rfl
  cases r with
  | reg r => cases r <;> simp only [hostRead, hostReadReg, mapNext_ite] <;> rfl
  | buffer sp a n => cases sp <;> simp only [hostRead, hostReadBuffer, mapNext_ite, bytes] <;> rfl

/-- Settles O53: a read that answers only observes (`hostRead_next`), and its answer depends on nothing that changed. -/
theorem hostReadsChangeNothing : Obligations.HostReadsChangeNothing := by
  intro s t r rest h ht
  rw [step_read h] at ht
  obtain ⟨o, rfl⟩ := hostRead_next ht
  refine ⟨o, rfl, fun rest' => ?_⟩
  rw [step_read rfl]
  exact (hostRead_outside r { s with host := rest } rest' (some o)).trans (congrArg (mapNext _) ht)

theorem toNat_append_eq {m n : Nat} (x : BitVec m) (y : BitVec n) : (x ++ y).toNat = 2 ^ n * x.toNat + y.toNat := by
  rw [BitVec.toNat_append, ← Nat.shiftLeft_add_eq_or_of_lt y.isLt, Nat.shiftLeft_eq, Nat.mul_comm]

/-- `STATUS` as the head of 95_test_vectors.md computes it. -/
theorem Status.word_toNat (st : Status) :
    st.word.toNat = st.busy.toNat + 2 * st.result.code.toNat + 16 * (errStepCode st.errStep).toNat +
      128 * st.txValid.toNat + 256 * st.imgValid.toNat := by
  simp only [Status.word, toNat_append_eq, BitVec.toNat_ofBool]
  omega

theorem cfgWord_toNat (l : Bool) : (cfgWord l).toNat = l.toNat := by cases l <;> rfl

theorem hostRead_txbuf {s : State} (hb : s.status.busy = false) (hv : s.status.txValid = true) {a n : Nat}
    (hfit : a + n ≤ 259) (hlen : a + n ≤ s.txlen.toNat) :
    hostRead (.buffer .txbuf a n) s = readBytes .txbuf a n s := by
  simp only [hostRead, hostReadBuffer, hb, hv, holds_eq_true (sp := .txbuf) hfit, hlen, Bool.false_eq_true,
    Bool.true_eq_false, if_false, if_true]

theorem hostRead_imgbuf {s : State} (hb : s.status.busy = false) (hv : s.status.imgValid = true) {a n : Nat}
    (hfit : a + n ≤ 10240) : hostRead (.buffer .imgbuf a n) s = readBytes .imgbuf a n s := by
  simp only [hostRead, hostReadBuffer, hb, hv, holds_eq_true (sp := .imgbuf) hfit, Bool.false_eq_true,
    Bool.true_eq_false, if_false]

/-- Settles O54: each register by its own rule, a buffer by the rule of its space. -/
theorem hostReadsReturnTheRegisters : Obligations.HostReadsReturnTheRegisters := by
  intro s rest
  refine ⟨?_, ?_, ?_, ?_, ?_, ?_, ?_, ?_, ?_, ?_⟩
  · intro h
    rw [step_read h, ← Status.word_toNat]
    rfl
  · intro h
    rw [step_read h, ← cfgWord_toNat]
    rfl
  · intro h
    rw [step_read h]
    rfl
  · intro h hb
    rw [step_read h]
    exact if_neg (not_busy_of_idle hb)
  · intro h hb
    rw [step_read h]
    exact if_neg (not_busy_of_idle hb)
  · intro h hb
    rw [step_read h]
    exact if_neg (not_busy_of_idle hb)
  · intro h hb hv
    rw [step_read h]
    exact (if_neg (not_busy_of_idle hb)).trans (if_pos hv)
  · intro sp a n bs h hsp hb hfit hr
    rw [step_read h, hostRead_operand (s := { s with host := rest }) hsp hb hfit]
    exact readBytes_some hr
  · intro a n bs h hb hv hlen hmax hr
    rw [step_read h, hostRead_txbuf (s := { s with host := rest }) hb hv (by omega) hlen]
    exact readBytes_some hr
  · intro a n bs h hb hv hfit hr
    rw [step_read h, hostRead_imgbuf (s := { s with host := rest }) hb hv hfit]
    exact readBytes_some hr

/-- Settles O56: the value is the free one of R31, whatever it is. -/
theorem readOfCmdReturnsSomeValue : Obligations.ReadOfCmdReturnsSomeValue :=
  fun s _ h => ⟨Config.cmdReadValue s.freeIdx, step_read h⟩

end Sys2Proof.Machine
end

section
/-! PROOFS. ENC, ACK and IMG in the register view: what each completes with, what each rejects, what each reads, and
what each leaves alone (40_encode.md ENC; 41_ack.md ACK; 42_image.md IMG; 20_memory.md §2, §3, §5). -/

namespace Sys2Proof.Machine

/-- Two writes from index 0 on leave every byte past them, and the other buffers, alone. -/
theorem Memory.byte?_write_write (m : Memory) {sp sp' : Space} {vs ws : List Byte} {n k : Nat} (hv : vs.length ≤ n)
    (hw : ws.length ≤ k) (sq : Space) (x : Nat) (h1 : ¬ (sq = sp ∧ x < n)) (h2 : ¬ (sq = sp' ∧ x < k)) :
    ((m.write sp 0 vs).write sp' 0 ws).byte? sq x = m.byte? sq x :=
  (Memory.sameBut_write _ sp' hw sq x h2).trans (Memory.sameBut_write m sp hv sq x h1)

/-! ## ENC -/

theorem encodeOperand_fault {s : State} (h : s.payloadLengthOk = true) (hp : s.payload? = none) :
    encodeOperand s = .fault (.noValue .pbuf) := by
  simp only [encodeOperand, h, if_true, hp]

theorem payloadLengthOk_eq_false_iff (s : State) :
    s.payloadLengthOk = false ↔ s.plen.toNat = 0 ∨ 255 < s.plen.toNat := by
  rw [← Bool.not_eq_true, payloadLengthOk_iff]
  omega

/-- The frame with its checksum written out (R81, R111). -/
theorem frameOf_eq (p : List Byte) :
    frameOf p = [0x02#8, 0x00#8, BitVec.ofNat 8 p.length] ++ p ++ [BitVec.ofNat 8 p.length ^^^ xorAll p] := by
  rw [frameOf, checksum_eq]

theorem writeFrame_read (s : State) (p : List Byte) :
    (s.writeFrame p).mem.read? .txbuf 0 (p.length + 4) = some (frameOf p) := by
  rw [State.writeFrame_mem]
  exact Memory.read?_write_all (frameOf_length p)

theorem writeFrame_sameBut (s : State) (p : List Byte) :
    s.mem.SameBut (s.writeFrame p).mem .txbuf (p.length + 4) :=
  Memory.sameBut_write s.mem .txbuf (Nat.le_of_eq (frameOf_length p))

/-- Settles O7: the length decides; the frame is `frameOf` of the payload read, and an error leaves no frame to read. -/
theorem encCompletesOrRaisesEncodingError : Obligations.EncCompletesOrRaisesEncodingError := by
  refine ⟨rfl, fun s hb => ⟨fun p h1 h2 hp => ?_, fun hbad => ?_⟩⟩
  · have hlen : p.length = s.plen.toNat := Memory.read?_length hp
    have hok : s.payloadLengthOk = true := (payloadLengthOk_iff s).mpr ⟨h1, h2⟩
    refine ⟨_, (exec_enc_idle hb).trans (encodeOperand_ok hok hp), ?_, txlen_toNat (by omega), rfl, rfl, rfl, rfl,
      ⟨rfl, rfl⟩, ⟨rfl, rfl, rfl⟩, ⟨rfl, rfl, rfl, rfl, rfl⟩, writeFrame_sameBut (s.latch .enc) p⟩
    rw [← frameOf_eq]
    exact writeFrame_read (s.latch .enc) p
  · refine ⟨_, (exec_enc_idle hb).trans (encodeOperand_bad ((payloadLengthOk_eq_false_iff s).mpr hbad)), rfl, rfl, rfl,
      rfl, rfl, ⟨rfl, rfl⟩, ⟨rfl, rfl, rfl⟩, ⟨rfl, rfl, rfl, rfl, rfl⟩, fun _ _ => rfl, fun rest => ?_,
      fun rest a n hfit => ?_⟩
    · exact (step_read rfl).trans (hostRead_txlen_absent rfl rfl)
    · exact (step_read rfl).trans (hostRead_txbuf_absent rfl rfl hfit)

/-- The frame rows, issued while nothing runs, are ENC of their payloads (R98; log 4). -/
theorem exec_frame_row {s : State} {i : Instr} {p : List Byte} (hb : s.status.busy = false)
    (h : (i = .cmdFrame p ∧ 1 ≤ p.length ∧ p.length ≤ 255) ∨ (i = .statusCheck ∧ p = [0x37#8, 0x01#8, 0x01#8, 0x01#8]) ∨
      (i = .prepareSensor ∧ p = [0x80#8, 0x02#8, 0x01#8]) ∨ (i = .triggerCapture ∧ p = [0x82#8, 0x73#8, 0x01#8]) ∨
      (i = .requestImage ∧ p = [0x81#8])) :
    payloadOk p = true ∧ encode i = frameOf p ∧ exec i s = encodePayload p s := by
  have fixed : ∀ k, payloadOk (cmdPayload k) = true ∧ encode (stepInstr k) = frameOf (cmdPayload k) ∧
      exec (stepInstr k) s = encodePayload (cmdPayload k) s := fun k =>
    ⟨payloadOk_cmdPayload k, by cases k <;> rfl, exec_stepInstr_idle hb k⟩
  rcases h with ⟨rfl, h1, h2⟩ | ⟨rfl, rfl⟩ | ⟨rfl, rfl⟩ | ⟨rfl, rfl⟩ | ⟨rfl, rfl⟩
  · exact ⟨(payloadOk_iff p).mpr ⟨h1, h2⟩, rfl, exec_cmdFrame_idle hb p⟩
  · exact fixed .one
  · exact fixed .two
  · exact fixed .three
  · exact fixed .four

/-- A payload presented reads back (R23). -/
theorem presentPayload_read {p : List Byte} (h : p.length ≤ 255) (s : State) :
    (s.presentPayload p).mem.read? .pbuf 0 p.length = some p := by
  rw [State.presentPayload_mem, take_pbuf h]
  exact Memory.read?_write_all rfl

/-- Settles O9: ENC of a payload just presented completes, with its frame in `TXBUF` and the payload still in `PBUF`. -/
theorem hostIssuedFrameIsEncOfItsPayload : Obligations.HostIssuedFrameIsEncOfItsPayload := by
  intro s i p hb hrow
  obtain ⟨hok, henc, hexec⟩ := exec_frame_row hb hrow
  have hlen := ((payloadOk_iff p).mp hok).2
  refine ⟨_, hexec.trans (encodePayload_ok hok s), ?_, ?_, ?_, txlen_toNat hlen, rfl, rfl, rfl, ⟨rfl, rfl⟩,
    ⟨rfl, rfl, rfl⟩, ⟨rfl, rfl, rfl, rfl, rfl⟩, ?_⟩
  · exact (Memory.read?_write_other _ _ _ _ _ (by decide)).trans (presentPayload_read hlen s)
  · show (saturate9 p.length).toNat = p.length
    rw [saturate9_toNat]
    omega
  · rw [henc]
    exact writeFrame_read ((s.presentPayload p).latch .enc) p
  · have hpbuf : (p.take Space.pbuf.size).length ≤ p.length := by rw [take_pbuf hlen]
    exact Memory.byte?_write_write s.mem hpbuf (Nat.le_of_eq (frameOf_length p))

/-! ## ACK -/

theorem validateOperand_eq (s : State) :
    validateOperand s = if s.rxlen.toNat = 7 then .next (s.latch .ack).completeOp
      else .next ((s.latch .ack).raiseError .ack .shortResponse none) := by
  simp only [validateOperand, State.ackOk, Config.ackLen, decide_eq_true_eq]

/-- Settles O11: `RXLEN` decides, and neither end of ACK writes anything else. -/
theorem ackAcceptsExactlySevenBytes : Obligations.AckAcceptsExactlySevenBytes := by
  intro s hb
  rw [exec_ack_idle hb, validateOperand_eq]
  split <;>
    exact ⟨_, rfl, rfl, rfl, rfl, rfl, rfl, ⟨rfl, rfl⟩, ⟨rfl, rfl, rfl⟩, ⟨rfl, rfl, rfl, rfl, rfl⟩, fun _ _ => rfl⟩

/-- The verdict of ACK on a response just stored (R120, R121). -/
theorem exec_ack_stored {s : State} (hb : s.status.busy = false) (r : List Byte) :
    ∃ t, exec .ack (s.storeResponse r) = .next t ∧ t.status.errStep = none ∧
      t.status.result = if r.length = 7 then .ok else .err .shortResponse := by
  rw [exec_ack_idle (s := s.storeResponse r) hb, validateOperand_storeResponse]
  split <;> exact ⟨_, rfl, rfl, rfl⟩

/-- Settles O12: both the pure function and the register view test the length alone. -/
theorem ackVerdictDependsOnLengthAlone : Obligations.AckVerdictDependsOnLengthAlone := by
  refine ⟨fun r q h => ?_, fun r h => ?_, fun s t r q hs ht h => ?_⟩
  · rw [decodeAcknowledgement_eq, decodeAcknowledgement_eq, h]
  · rw [decodeAcknowledgement_eq, if_pos h]
  · obtain ⟨s', hs', hsstep, hsres⟩ := exec_ack_stored hs r
    obtain ⟨t', ht', htstep, htres⟩ := exec_ack_stored ht q
    exact ⟨s', t', hs', ht', by rw [hsres, htres, h], by rw [hsstep, htstep], hsres⟩

/-- `v` is `s` with the response `r` stored: counted in `RXLEN`, and its first 10246 bytes in `RXBUF` (R25, R171). -/
structure State.Stored (s : State) (r : List Byte) (v : State) : Prop where
  lenient : v.lenient = s.lenient
  timeout : v.timeout = s.timeout
  cmd : v.cmd = s.cmd
  status : v.status = s.status
  sstate : v.sstate = s.sstate
  phase : v.phase = s.phase
  plen : v.plen = s.plen
  txlen : v.txlen = s.txlen
  host : v.host = s.host
  sendAnswers : v.sendAnswers = s.sendAnswers
  recvAnswers : v.recvAnswers = s.recvAnswers
  trace : v.trace = s.trace
  observed : v.observed = s.observed
  freeIdx : v.freeIdx = s.freeIdx
  rxlen : v.rxlen.toNat = min r.length 16383
  read : v.mem.read? .rxbuf 0 (min r.length 10246) = some (r.take 10246)
  mem : s.mem.SameBut v.mem .rxbuf (min r.length 10246)

theorem stored (s : State) (r : List Byte) : s.Stored r (s.storeResponse r) where
  lenient := rfl
  timeout := rfl
  cmd := rfl
  status := rfl
  sstate := rfl
  phase := rfl
  plen := rfl
  txlen := rfl
  host := rfl
  sendAnswers := rfl
  recvAnswers := rfl
  trace := rfl
  observed := rfl
  freeIdx := rfl
  rxlen := saturate14_toNat r.length
  read := by
    rw [State.storeResponse_mem, Space.size_rxbuf]
    exact Memory.read?_write_all (by rw [List.length_take, Nat.min_comm])
  mem := Memory.sameBut_write s.mem .rxbuf (by rw [List.length_take, Space.size_rxbuf, Nat.min_comm])

section Fits

variable {s v : State} {r : List Byte} (hv : s.Stored r v) (h : r.length ≤ 10246)
include hv h

/-! A response that fits `RXBUF` is stored whole. -/

theorem State.Stored.read_whole : v.mem.read? .rxbuf 0 r.length = some r := by
  have hread := hv.read
  rwa [Nat.min_eq_left h, List.take_of_length_le h] at hread

theorem State.Stored.rxlen_whole : v.rxlen.toNat = r.length := by
  rw [hv.rxlen]
  omega

theorem State.Stored.mem_whole : s.mem.SameBut v.mem .rxbuf r.length := Nat.min_eq_left h ▸ hv.mem

end Fits

/-- Settles O13: ACK of a response just stored, of seven bytes. -/
theorem hostIssuedAckResponseIsAccepted : Obligations.HostIssuedAckResponseIsAccepted := by
  intro s r hb h
  have hle : r.length ≤ 10246 := by omega
  have hexec := exec_ackResp_idle hb r
  rw [validateOperand_storeResponse, if_pos h] at hexec
  have hv := stored s r
  generalize s.storeResponse r = v at hexec hv
  refine ⟨_, hexec, h ▸ hv.read_whole hle, (hv.rxlen_whole hle).trans h, ?_, rfl, hv.plen, hv.txlen,
    ⟨hv.lenient, hv.timeout⟩, ⟨hv.sstate, hv.phase, hv.trace⟩,
    ⟨hv.host, hv.sendAnswers, hv.recvAnswers, hv.observed, hv.freeIdx⟩, h ▸ hv.mem_whole hle⟩
  rw [State.completeOp_status, State.latch_status, hv.status]
  rfl

/-! ## IMG -/

theorem imageRejected_eq (s : State) : s.imageRejected = (!s.lenient && decide (s.rxlen.toNat ≠ 10246)) := rfl

/-- A raster written reads back (R130). -/
theorem writeRaster_read_of_length {out : List Byte} (h : out.length = 10240) (s : State) :
    (s.writeRaster out).mem.read? .imgbuf 0 10240 = some out := by
  rw [State.writeRaster_mem]
  exact Memory.read?_write_all h

theorem writeRaster_sameBut {out : List Byte} (h : out.length = 10240) (s : State) :
    s.mem.SameBut (s.writeRaster out).mem .imgbuf 10240 :=
  Memory.sameBut_write s.mem .imgbuf (Nat.le_of_eq h)

theorem exec_img_rejects {s : State} (hb : s.status.busy = false) (hr : s.imageRejected = true) :
    exec .img s = .next ((s.latch .img).raiseError .img .truncatedFrame none) := by
  rw [exec_img_idle hb, unpackOperand, if_pos hr]

theorem exec_img_completes {s : State} {out : List Byte} (hb : s.status.busy = false) (hr : s.imageRejected = false)
    (ho : s.rasterOfResponse? = some out) : exec .img s = .next ((s.latch .img).writeRaster out).completeOp := by
  simp only [exec_img_idle hb, unpackOperand, hr, Bool.false_eq_true, if_false, ho]

theorem exec_img_faults {s : State} (hb : s.status.busy = false) (hr : s.imageRejected = false)
    (ho : s.rasterOfResponse? = none) : exec .img s = .fault (.noValue .rxbuf) := by
  simp only [exec_img_idle hb, unpackOperand, hr, Bool.false_eq_true, if_false, ho]

/-- The raster from the bytes read: they come first, and zeros fill it up (R134). -/
theorem rasterOfResponse?_of_read {s : State} {px : List Byte}
    (h : s.mem.read? .rxbuf 4 (2 * copiedPixels s.rxlen.toNat) = some px) :
    s.rasterOfResponse? = some (px ++ List.replicate (10240 - 2 * copiedPixels s.rxlen.toNat) 0#8) := by
  simp only [State.rasterOfResponse?, Config.imgHdrLen, Config.rasterLen, h, Option.map_some]

theorem rasterOfResponse?_of_read_full {s : State} {px : List Byte} (hlen : s.rxlen.toNat = 10246)
    (h : s.mem.read? .rxbuf 4 10240 = some px) : s.rasterOfResponse? = some px := by
  have hcopied : copiedPixels s.rxlen.toNat = 5120 := copiedPixels_full (by omega)
  rw [rasterOfResponse?_of_read (px := px) (by rw [hcopied]; exact h), hcopied]
  simp

/-- How many pixels are copied, by the length (42_image.md, lenient mode). -/
theorem copiedPixels_eq (m : Nat) :
    copiedPixels m = if m ≤ 5 then 0 else if m ≤ 10244 then (m - 4) / 2 else 5120 := by
  simp only [copiedPixels, Config.npix, Config.imgHdrLen]
  split <;> [skip; split] <;> omega

/-- Settles O8: a payload, and the pixel bytes to be copied, are each read as a whole (`Memory.read?_none`). -/
theorem unwrittenOperandFaults : Obligations.UnwrittenOperandFaults := by
  intro s a hb hm
  refine ⟨fun h1 h2 ha hnone => ?_, fun i hmode hi hwindow ha hnone => ?_⟩
  · rw [exec_enc_idle hb]
    exact encodeOperand_fault ((payloadLengthOk_iff s).mpr ⟨h1, h2⟩)
      (Memory.read?_none hm (Nat.zero_le a) (by omega) hnone)
  · have hcopied : i < copiedPixels s.rxlen.toNat := by
      simp only [copiedPixels, Config.npix, Config.imgHdrLen]
      omega
    refine exec_img_faults hb ?_ ?_
    · rw [imageRejected_eq]
      rcases hmode with hmode | hmode <;> simp [hmode]
    · simp only [State.rasterOfResponse?, Config.imgHdrLen, Option.map_eq_none_iff]
      exact Memory.read?_none hm (x := a) (by omega) (by omega) hnone

/-- Settles O14: in strict mode `RXLEN` decides, and the raster is the bytes read. -/
theorem strictImgCopiesOrRaisesTruncatedFrame : Obligations.StrictImgCopiesOrRaisesTruncatedFrame := by
  refine ⟨rfl, fun s hb hstrict => ⟨fun px hlen hpx => ?_, fun hlen => ?_⟩⟩
  · have hr : s.imageRejected = false := by rw [imageRejected_eq, hlen]; simp
    have hpxlen : px.length = 10240 := Memory.read?_length hpx
    refine ⟨_, exec_img_completes hb hr (rasterOfResponse?_of_read_full hlen hpx),
      writeRaster_read_of_length hpxlen (s.latch .img), rfl,
      rfl, rfl, rfl, rfl, ⟨rfl, rfl⟩, ⟨rfl, rfl, rfl⟩, ⟨rfl, rfl, rfl, rfl, rfl⟩,
      writeRaster_sameBut hpxlen (s.latch .img)⟩
  · have hr : s.imageRejected = true := by
      rw [imageRejected_eq, hstrict, decide_eq_true (by omega)]
      rfl
    refine ⟨_, exec_img_rejects hb hr, rfl, rfl, rfl, rfl, rfl, ⟨rfl, rfl⟩, ⟨rfl, rfl, rfl⟩,
      ⟨rfl, rfl, rfl, rfl, rfl⟩, fun _ _ => rfl, fun rest a n hfit => ?_⟩
    exact (step_read rfl).trans (hostRead_imgbuf_absent rfl rfl hfit)

/-- The raster depends on the pixel bytes of the response alone, indexes 4 to 10243 (R134, R137). -/
theorem unpackImage_congr {r q : List Byte} (h : ∀ k, 4 ≤ k → k < 10244 → r[k]? = q[k]?) :
    unpackImage r = unpackImage q := by
  unfold unpackImage
  rw [List.flatMap_def, List.flatMap_def]
  refine congrArg List.flatten (List.map_congr_left fun i hi => ?_)
  have hi : i < 5120 := List.mem_range.mp hi
  unfold windowOrZero
  rw [Config.imgHdrLen, h (4 + 2 * i) (by omega) (by omega), h (4 + 2 * i + 1) (by omega) (by omega)]

theorem decodeImageResponse_lenient (r : List Byte) : decodeImageResponse true r = .ok (unpackImage r) := by
  rw [decodeImageResponse_eq, if_neg (fun h => by cases h.1)]

/-- Settles O15: strict mode rejects every other length; no pixel byte lies past the first 10246. -/
theorem overlongImageResponseIsTruncatedFrameOrCut : Obligations.OverlongImageResponseIsTruncatedFrameOrCut := by
  refine ⟨fun s hb hstrict hlen => ?_, fun r hlen => ⟨?_, ?_⟩⟩
  · have hr : s.imageRejected = true := by
      rw [imageRejected_eq, hstrict, decide_eq_true (by omega)]
      rfl
    exact ⟨_, exec_img_rejects hb hr, rfl, rfl, rfl, rfl, rfl, ⟨rfl, rfl⟩, ⟨rfl, rfl, rfl⟩,
      ⟨rfl, rfl, rfl, rfl, rfl⟩, fun _ _ => rfl⟩
  · rw [decodeImageResponse_eq, if_pos ⟨rfl, by omega⟩]
  · rw [decodeImageResponse_lenient, decodeImageResponse_lenient]
    exact congrArg Except.ok (unpackImage_congr fun k _ hk => (List.getElem?_take_of_lt (by omega)).symm)

/-- Settles O16: lenient mode rejects no length, and `copiedPixels` says how many pixels are copied. -/
theorem lenientImgNeverRaisesAnError : Obligations.LenientImgNeverRaisesAnError := by
  intro s k px hb hlenient hk hpx
  rw [← copiedPixels_eq] at hk
  subst hk
  have hr : s.imageRejected = false := by rw [imageRejected_eq, hlenient]; rfl
  have hraster := rasterOfResponse?_of_read hpx
  have hlen := rasterOfResponse?_length hraster
  exact ⟨_, exec_img_completes hb hr hraster, writeRaster_read_of_length hlen (s.latch .img), rfl, rfl, rfl, rfl,
    rfl, ⟨rfl, rfl⟩, ⟨rfl, rfl, rfl⟩, ⟨rfl, rfl, rfl, rfl, rfl⟩, writeRaster_sameBut hlen (s.latch .img)⟩

/-- Settles O18: `unpackImage_pixel`, with the bound as R134 writes it. -/
theorem lenientPixelIsCopiedOrZero : Obligations.LenientPixelIsCopiedOrZero := by
  intro r
  refine ⟨unpackImage r, decodeImageResponse_lenient r, unpackImage_length r, fun i hi => ?_⟩
  have hbound : 4 + 2 * i + 1 ≤ r.length - 1 ↔ 4 + 2 * i + 1 < r.length := by omega
  rw [hbound]
  exact unpackImage_pixel r hi

/-- Settles O19: neither the verdict nor the raster looks at those six bytes. -/
theorem headerAndTrailerAreIgnored : Obligations.HeaderAndTrailerAreIgnored := by
  intro lenient r q hlen h
  have hraster : unpackImage r = unpackImage q :=
    unpackImage_congr fun k h4 hk => h k h4 (by omega) (by omega)
  rw [decodeImageResponse_eq, decodeImageResponse_eq, hlen, hraster]

/-- `RXBUF` replaced, all else kept. -/
def State.withRxbuf (b : Buffer) (s : State) : State := { s with mem := { s.mem with rxbuf := b } }

theorem imageRejected_withRxbuf (b : Buffer) (s : State) : (s.withRxbuf b).imageRejected = s.imageRejected := rfl

theorem rasterOfResponse?_withRxbuf {s : State} {b : Buffer} (hm : s.mem.wf) (hb : Buffer.wf 10246 b)
    (h : ∀ a, 4 ≤ a → a ≤ 10243 → a < s.rxlen.toNat → b.byte? a = s.mem.byte? .rxbuf a) :
    (s.withRxbuf b).rasterOfResponse? = s.rasterOfResponse? := by
  have hread : b.bytes? 4 (2 * copiedPixels s.rxlen.toNat) =
      s.mem.rxbuf.bytes? 4 (2 * copiedPixels s.rxlen.toNat) := by
    refine bytes?_congr (Memory.buffer_rising hm .rxbuf) hb.1 fun x h4 hx => h x h4 ?_ ?_ <;>
      simp only [copiedPixels, Config.npix, Config.imgHdrLen] at hx <;> omega
  exact congrArg (Option.map _) hread

/-- Settles O20: the verdict depends on `RXLEN`, and the raster on the bytes that `rasterOfResponse?` reads. -/
theorem imgReadsOnlyThePixelBytesPresent : Obligations.ImgReadsOnlyThePixelBytesPresent := by
  intro s b hb hm hwf h
  have hraster := rasterOfResponse?_withRxbuf hm hwf h
  cases hr : s.imageRejected with
  | true =>
    rw [exec_img_rejects hb hr]
    refine ⟨fun t ht => ?_, fun e he => (by cases he)⟩
    cases ht
    exact exec_img_rejects (s := s.withRxbuf b) hb ((imageRejected_withRxbuf b s).trans hr)
  | false =>
    cases ho : s.rasterOfResponse? with
    | none =>
      rw [exec_img_faults hb hr ho]
      refine ⟨fun t ht => (by cases ht), fun e he => ?_⟩
      cases he
      exact exec_img_faults (s := s.withRxbuf b) hb ((imageRejected_withRxbuf b s).trans hr) (hraster.trans ho)
    | some out =>
      rw [exec_img_completes hb hr ho]
      refine ⟨fun t ht => ?_, fun e he => (by cases he)⟩
      cases ht
      exact exec_img_completes (s := s.withRxbuf b) hb ((imageRejected_withRxbuf b s).trans hr) (hraster.trans ho)

theorem imgResp_length {h px tr : List Byte} (h1 : h.length = 4) (h2 : px.length = 10240) (h3 : tr.length = 2) :
    (h ++ px ++ tr).length = 10246 := by
  simp only [List.length_append, h1, h2, h3]

/-- IMG's raster is written to `IMGBUF` alone (R22). -/
theorem writeRaster_read_rxbuf (v : State) (out : List Byte) (j n : Nat) :
    (v.writeRaster out).mem.read? .rxbuf j n = v.mem.read? .rxbuf j n :=
  Memory.read?_write_other v.mem (sp := .imgbuf) 0 out j n (by decide)

/-- Settles O21: IMG of a complete response just stored, whose raster is its pixel bytes. -/
theorem hostIssuedImageResponseIsUnpacked : Obligations.HostIssuedImageResponseIsUnpacked := by
  intro s h px tr hb h1 h2 h3
  have hlen := imgResp_length h1 h2 h3
  have hle := Nat.le_of_eq hlen
  have hexec := exec_imgResp_idle hb h px tr
  rw [unpackOperand_storeResponse, if_neg fun hr => hr.2 hlen, unpackImage_complete h1 h2 h3] at hexec
  have hv := stored s (h ++ px ++ tr)
  generalize s.storeResponse (h ++ px ++ tr) = v at hexec hv
  refine ⟨_, hexec, ?_, (hv.rxlen_whole hle).trans hlen, writeRaster_read_of_length h2 (v.latch .img), ?_, rfl, hv.plen,
    hv.txlen, ⟨hv.lenient, hv.timeout⟩, ⟨hv.sstate, hv.phase, hv.trace⟩,
    ⟨hv.host, hv.sendAnswers, hv.recvAnswers, hv.observed, hv.freeIdx⟩, fun sq x hrx himg => ?_⟩
  · exact (writeRaster_read_rxbuf (v.latch .img) px 0 10246).trans (hlen ▸ hv.read_whole hle)
  · rw [State.completeOp_status, State.writeRaster_status, State.latch_status, hv.status]
    rfl
  · exact (writeRaster_sameBut h2 (v.latch .img) sq x himg).trans (hv.mem_whole hle sq x (hlen.symm ▸ hrx))

/-! ## The raster and its consumer -/

/-- Settles O22: `BUSY`, `IMG_VALID` and the comparison decide, in that order. -/
theorem sensorFrameIsHandedOverWhenValid : Obligations.SensorFrameIsHandedOverWhenValid := by
  intro s px
  have hraster : s.status.imgValid = true → s.raster? = s.mem.read? .imgbuf 0 10240 := fun hv => if_pos hv
  refine ⟨fun hb hv hr => ?_, fun hb hv hr => ?_, fun hb hv => ?_, fun hb => if_pos hb⟩
  · have hsame : sameRaster s.raster? px = true := (sameRaster_iff _ _).mpr ((hraster hv).trans hr)
    simp only [exec, execSensorFrame, hb, hv, hsame, Bool.false_eq_true, Bool.true_eq_false, if_false, if_true]
  · have hother : ¬ sameRaster s.raster? px = true := fun h => hr ((hraster hv).symm.trans ((sameRaster_iff _ _).mp h))
    simp only [exec, execSensorFrame, hb, hv, hother, Bool.false_eq_true, Bool.true_eq_false, if_false]
  · simp only [exec, execSensorFrame, hb, hv, Bool.false_eq_true, if_false, if_true]

/-- A pixel as a number, from the two bytes of its pair (R60). -/
theorem pixelValue_eq {out : List Byte} {i : Nat} {hi lo : Byte} (h1 : out[2 * i]? = some hi)
    (h2 : out[2 * i + 1]? = some lo) : pixelValue out i = 256 * hi.toNat + lo.toNat := by
  rw [pixelValue, List.getD_eq_getElem?_getD, List.getD_eq_getElem?_getD, h1, h2]
  rfl

/-- Settles O23: `pix` is `pixelValue` at `64*r + c`, and the rest is arithmetic. -/
theorem pixelsAreBigEndianRowMajor : Obligations.PixelsAreBigEndianRowMajor := by
  intro out r c hi lo hr hc h1 h2
  have hpix : pix out r c = 256 * hi.toNat + lo.toNat := pixelValue_eq h1 h2
  have hhi := hi.isLt
  have hlo := lo.isLt
  exact ⟨hpix, rfl, by omega, by omega, by omega, by omega⟩

/-! ## The register views are the pure functions -/

theorem exec_enc_is_encodeCommand {s : State} (hb : s.status.busy = false) (x : List Byte) :
    ∃ t, exec .enc (s.presentPayload x) = .next t ∧
      match encodeCommand x with
      | .ok f => t.status.result = .ok ∧ t.status.txValid = true ∧ t.txlen.toNat = f.length ∧
          t.mem.read? .txbuf 0 f.length = some f
      | .error e => t.status.result = .err e ∧ t.status.txValid = false := by
  rw [exec_enc_present hb]
  cases hok : payloadOk x with
  | true =>
    rw [encodeCommand_ok hok]
    refine ⟨_, encodePayload_ok hok s, rfl, rfl, ?_, ?_⟩ <;> rw [frameOf_length]
    · exact txlen_toNat ((payloadOk_iff x).mp hok).2
    · exact writeFrame_read ((s.presentPayload x).latch .enc) x
  | false =>
    rw [(encodeCommand_eq_error_iff x).mpr hok]
    exact ⟨_, encodePayload_bad hok s, rfl, rfl⟩

theorem exec_ack_is_decodeAcknowledgement {s : State} (hb : s.status.busy = false) (x : List Byte) :
    ∃ t, exec .ack (s.storeResponse x) = .next t ∧
      match decodeAcknowledgement x with
      | .ok _ => t.status.result = .ok
      | .error e => t.status.result = .err e := by
  obtain ⟨t, ht, -, hres⟩ := exec_ack_stored hb x
  refine ⟨t, ht, ?_⟩
  rw [decodeAcknowledgement_eq]
  by_cases h : x.length = 7
  · rw [if_pos h] at hres ⊢
    exact hres
  · rw [if_neg h] at hres ⊢
    exact hres

theorem exec_img_is_decodeImageResponse {s : State} (hb : s.status.busy = false) (x : List Byte) :
    ∃ t, exec .img (s.storeResponse x) = .next t ∧
      match decodeImageResponse s.lenient x with
      | .ok out => t.status.result = .ok ∧ t.status.imgValid = true ∧ t.mem.read? .imgbuf 0 10240 = some out
      | .error e => t.status.result = .err e ∧ t.status.imgValid = false := by
  rw [exec_img_idle (s := s.storeResponse x) hb, unpackOperand_storeResponse, decodeImageResponse_eq]
  by_cases h : s.lenient = false ∧ x.length ≠ 10246
  · rw [if_pos h, if_pos h]
    exact ⟨_, rfl, rfl, rfl⟩
  · rw [if_neg h, if_neg h]
    exact ⟨_, rfl, rfl, rfl, writeRaster_read ((s.storeResponse x).latch .img) x⟩

/-- Settles O24: operation by operation, by the verdict on the length. -/
theorem hostStartedOperationsAreTheCodec : Obligations.HostStartedOperationsAreTheCodec :=
  fun _ x hb => ⟨exec_enc_is_encodeCommand hb x, exec_ack_is_decodeAcknowledgement hb x,
    exec_img_is_decodeImageResponse hb x⟩

end Sys2Proof.Machine
end

section
/-! PROOFS. The halves of a capture step: what each leaves, and how each ends (43_capture.md §2, §3;
60_exceptions.md §2). -/

namespace Sys2Proof.Machine

/-- Settles O25: `startSession`, field by field. -/
theorem captureStartsAFreshSession : Obligations.CaptureStartsAFreshSession := by
  intro s hb
  exact ⟨s.startSession, exec_capture_idle hb, rfl, rfl, rfl, rfl, rfl, rfl, rfl, rfl, ⟨rfl, rfl⟩,
    ⟨rfl, rfl, rfl, rfl, rfl⟩, fun _ _ => rfl⟩

/-! ## The send half -/

/-- Only the session's position and the parts of `STATUS` that an operation's end writes may differ. -/
structure State.SameButPosition (u t : State) : Prop where
  lenient : t.lenient = u.lenient
  timeout : t.timeout = u.timeout
  cmd : t.cmd = u.cmd
  txValid : t.status.txValid = u.status.txValid
  plen : t.plen = u.plen
  txlen : t.txlen = u.txlen
  rxlen : t.rxlen = u.rxlen
  mem : t.mem = u.mem
  host : t.host = u.host
  sendAnswers : t.sendAnswers = u.sendAnswers
  recvAnswers : t.recvAnswers = u.recvAnswers
  trace : t.trace = u.trace
  observed : t.observed = u.observed
  freeIdx : t.freeIdx = u.freeIdx

theorem sent_sameButPosition (k : CaptureStep) (u : State) : u.SameButPosition (u.sent k) := by
  constructor <;> simp

theorem failStep_sameButPosition (e : FceError) (k : CaptureStep) (u : State) : u.SameButPosition (u.failStep e k) := by
  constructor <;> simp

/-- The send half with an answer given: the call is made, and then the answer decides the position. -/
theorem transmit_answered (k : CaptureStep) {s : State} {a : SendOutcome} {rest : List SendOutcome}
    (ha : s.sendAnswers = a :: rest) :
    ∃ t, transmit k s = .next t ∧ ((s.takeSend rest).callSend k).SameButPosition t ∧
      (a = .ok → t = ((s.takeSend rest).callSend k).sent k) ∧
      (a = .error → t = ((s.takeSend rest).callSend k).failStep .transportFailure k) := by
  cases a with
  | ok => exact ⟨_, transmit_ok ha, sent_sameButPosition k _, fun _ => rfl, fun h => by cases h⟩
  | error => exact ⟨_, transmit_error ha, failStep_sameButPosition _ k _, fun h => (by cases h), fun _ => rfl⟩

/-- Settles O26: at its position the frame's row is the send half of its step, whose call leaves payload and frame in
the buffers whatever the answer is. -/
theorem fixedFrameIsSentAtItsStep : Obligations.FixedFrameIsSentAtItsStep := by
  intro s q q' k a rest hrow hb hp hq ha
  obtain ⟨t, ht, hsame, hok, herror⟩ := transmit_answered k ha
  refine ⟨t, ?_, ?_, hsame.sendAnswers, ?_, ?_, ?_, ?_, hsame.txValid, ?_, ?_, hsame.cmd, hsame.rxlen,
    ⟨hsame.lenient, hsame.timeout⟩, hsame.host, hsame.recvAnswers, hsame.observed, hsame.freeIdx, ?_⟩
  · rw [exec_stepInstr, runFrame_at hb hp (sendRows_spec hrow s hq).1, ht]
  · rw [hsame.trace, callSend_trace]
    rfl
  · rw [hsame.mem, callSend_pbuf]
  · rw [hsame.plen, callSend_plen]
  · rw [hsame.mem, callSend_txbuf]
  · rw [hsame.txlen, callSend_txlen]
  · intro h
    obtain rfl := hok h
    exact ⟨(sendRows_spec hrow ((s.takeSend rest).callSend k) hq).2, State.sent_phase _ k, State.sent_status _ k⟩
  · intro h
    obtain rfl := herror h
    exact failStep_failedWith _ _ _
  · rw [hsame.mem]
    exact callSend_frame k (s.takeSend rest)

/-! ## The receive half -/

theorem exec_ackResp_at {s : State} {k : CaptureStep} (hb : s.status.busy = true) (hp : s.phase = .recv)
    (hk : recvStep? s.sstate = some k) (r : List Byte) : exec (.ackResp r) s = receiveData k r s :=
  (if_pos hb).trans (receiveOutstanding_at r hp hk)

theorem exec_imgResp_at {s : State} {k : CaptureStep} (hb : s.status.busy = true) (hp : s.phase = .recv)
    (hk : recvStep? s.sstate = some k) (h px tr : List Byte) :
    exec (.imgResp h px tr) s = receiveData k (h ++ px ++ tr) s :=
  (if_pos hb).trans (receiveOutstanding_at _ hp hk)

/-- Settles O27: the receive half on seven bytes stores them and advances. -/
theorem ackResponseAdvancesTheSession : Obligations.AckResponseAdvancesTheSession := by
  intro s q q' k r hrow hb hp hq hr
  obtain ⟨hk, hne, hnext, hlen⟩ := ackRows_spec hrow
  have hle : r.length ≤ 10246 := by omega
  have hexec := exec_ackResp_at hb hp (hq ▸ hk) r
  rw [receiveData_ack hne, if_pos hr] at hexec
  have hv := stored (s.callRecv k) r
  generalize (s.callRecv k).storeResponse r = v at hexec hv
  exact ⟨_, hexec, hnext, rfl, hlen ▸ hv.trace, hr ▸ hv.read_whole hle, (hv.rxlen_whole hle).trans hr, hv.status,
    hv.cmd, hv.plen, hv.txlen, ⟨hv.lenient, hv.timeout⟩,
    ⟨hv.host, hv.sendAnswers, hv.recvAnswers, hv.observed, hv.freeIdx⟩, hr ▸ hv.mem_whole hle⟩

/-- Settles O28: the receive half on a complete response stores it, and its raster is its pixel bytes. -/
theorem imageResponseCompletesTheCapture : Obligations.ImageResponseCompletesTheCapture := by
  intro s h px tr hb hp hq h1 h2 h3
  have hlen := imgResp_length h1 h2 h3
  have hle := Nat.le_of_eq hlen
  have hexec := exec_imgResp_at hb hp (hq ▸ rfl : recvStep? s.sstate = some .four) h px tr
  rw [receiveData_image, if_neg fun hr => hr.2 hlen, unpackImage_complete h1 h2 h3] at hexec
  have hv := stored (s.callRecv .four) (h ++ px ++ tr)
  generalize (s.callRecv .four).storeResponse (h ++ px ++ tr) = v at hexec hv
  refine ⟨_, hexec, rfl, rfl, hv.trace, ?_, writeRaster_read_of_length h2 v, ?_, (hv.rxlen_whole hle).trans hlen,
    hv.cmd, hv.plen, hv.txlen, ⟨hv.lenient, hv.timeout⟩,
    ⟨hv.host, hv.sendAnswers, hv.recvAnswers, hv.observed, hv.freeIdx⟩, fun sq x hrx himg => ?_⟩
  · rw [State.completeCapture_status, State.writeRaster_status, hv.status]
    rfl
  · exact (writeRaster_read_rxbuf v px 0 10246).trans (hlen ▸ hv.read_whole hle)
  · exact (writeRaster_sameBut h2 v sq x himg).trans (hv.mem_whole hle sq x (hlen.symm ▸ hrx))

/-- Settles O30: without an answer `fetchSend` and `fetchRecv` answer the state they were given. -/
theorem unansweredCallLeavesTheMachine : Obligations.UnansweredCallLeavesTheMachine := by
  intro s hw hb hcall
  rw [step_hostWaits hw hb]
  rcases hcall with ⟨hp, ha⟩ | ⟨hp, ha⟩
  · rw [sequencerTurn_send hb hp, fetchSend, ha]
    cases sendStep? s.sstate <;> rfl
  · rw [sequencerTurn_recv hb hp, fetchRecv, ha]
    cases recvStep? s.sstate <;> rfl

theorem expectedLen_eq (k : CaptureStep) : expectedLen k = if k = .four then 10246 else 7 := by cases k <;> rfl

/-- Settles O31: the step is `recvFailed`, which records the call and raises the error. -/
theorem failedReceiveWithoutDataChangesNoBuffer : Obligations.FailedReceiveWithoutDataChangesNoBuffer := by
  intro s h q k a e rest hm hb hp hrow hq ha hcause
  have hk : recvStep? s.sstate = some k := hq ▸ (recvRows_spec hrow).1
  have hstep : step s = .next ((({ s with host := h } : State).tick.takeRecv rest).recvFailed e k) := by
    rcases hcause with ⟨rfl, rfl⟩ | ⟨rfl, rfl⟩
    · exact (step_moves_receive_fails hm hb hp hk).1 ha
    · exact (step_moves_receive_fails hm hb hp hk).2 ha
  rw [← expectedLen_eq]
  have hsame := failStep_sameButPosition e k ((({ s with host := h } : State).tick.takeRecv rest).callRecv k)
  exact ⟨_, hstep, recvFailed_failedWith e k _, hsame.txValid, hsame.trace, hsame.cmd, hsame.plen, hsame.txlen,
    hsame.rxlen, fun sq x => congrArg (Memory.byte? · sq x) hsame.mem, ⟨hsame.lenient, hsame.timeout⟩, hsame.host,
    hsame.sendAnswers, hsame.recvAnswers, hsame.observed⟩

/-- Data of another length: an error of the step, or at step 4 in lenient mode the raster (R134, R161). -/
theorem receiveData_other_length {k : CaptureStep} {r : List Byte} (h : r.length ≠ expectedLen k) (s : State) :
    (∃ e, receiveData k r s = .next (((s.callRecv k).storeResponse r).failStep e k) ∧
      (k ≠ .four ∧ e = .shortResponse ∨ k = .four ∧ s.lenient = false ∧ e = .truncatedFrame)) ∨
    (k = .four ∧ s.lenient = true ∧ receiveData k r s =
      .next (((s.callRecv k).storeResponse r).writeRaster (unpackImage r)).completeCapture) := by
  by_cases hk : k = .four
  · subst hk
    rw [receiveData_image]
    cases hl : s.lenient with
    | false => exact .inl ⟨_, if_pos ⟨rfl, h⟩, .inr ⟨rfl, rfl, rfl⟩⟩
    | true => exact .inr ⟨rfl, rfl, if_neg fun hr => by cases hr.1⟩
  · have hr : r.length ≠ 7 := by rwa [expectedLen_eq, if_neg hk] at h
    rw [receiveData_ack hk, if_neg hr]
    exact .inl ⟨_, rfl, .inl ⟨hk, rfl⟩⟩

/-- Settles O32: the data is stored before it is judged (`stored`), and the verdict writes no buffer but, in lenient
mode, the raster. -/
theorem dataOfAnotherLengthIsStoredAndJudged : Obligations.DataOfAnotherLengthIsStoredAndJudged := by
  intro s h q k r rest hm hb hp hrow hq ha hlen
  rw [← expectedLen_eq] at hlen ⊢
  have hk : recvStep? s.sstate = some k := hq ▸ (recvRows_spec hrow).1
  have hstep := step_moves_receives hm hb hp hk ha
  have hv := stored ((({ s with host := h } : State).tick.takeRecv rest).callRecv k) r
  have hjudged := receiveData_other_length hlen (({ s with host := h } : State).tick.takeRecv rest)
  generalize ((({ s with host := h } : State).tick.takeRecv rest).callRecv k).storeResponse r = v at hv hjudged
  rcases hjudged with ⟨e, hdata, hcause⟩ | ⟨rfl, hl, hdata⟩
  · refine ⟨_, hstep.trans hdata, fun hne => ?_, fun h4 hl => ?_, fun h4 hl => ?_,
      (congrArg Status.txValid hv.status :), hv.trace,
      hv.rxlen, hv.read, hv.cmd, hv.plen, hv.txlen, ⟨hv.lenient, hv.timeout⟩, hv.host, hv.sendAnswers, hv.recvAnswers,
      hv.observed, fun sq x h1 _ => hv.mem sq x h1⟩
    · obtain ⟨-, rfl⟩ := hcause.resolve_right fun hc => hne hc.1
      exact failStep_failedWith _ _ _
    · obtain ⟨-, -, rfl⟩ := hcause.resolve_left fun hc => hc.1 h4
      exact h4 ▸ failStep_failedWith _ _ _
    · obtain ⟨-, hstrict, -⟩ := hcause.resolve_left fun hc => hc.1 h4
      cases hl.symm.trans hstrict
  · refine ⟨_, hstep.trans hdata, fun hne => absurd rfl hne, fun _ hstrict => ?_, fun _ _ => ⟨rfl, ?_, unpackImage r,
      decodeImageResponse_lenient r, writeRaster_read v r⟩, (congrArg Status.txValid hv.status :), hv.trace, hv.rxlen,
      ?_, hv.cmd,
      hv.plen, hv.txlen, ⟨hv.lenient, hv.timeout⟩, hv.host, hv.sendAnswers, hv.recvAnswers, hv.observed,
      fun sq x h1 h2 => ?_⟩
    · cases hstrict.symm.trans hl
    · rw [State.completeCapture_status, State.writeRaster_status, hv.status]
      rfl
    · exact (writeRaster_read_rxbuf v (unpackImage r) 0 _).trans hv.read
    · refine (writeRaster_sameBut (unpackImage_length r) v sq x fun hx => ?_).trans (hv.mem sq x h1)
      exact h2 ⟨hx.1, hx.2, rfl, hl⟩

/-- Settles O33: at step 4 the verdict is `decodeImageResponse`'s in the current mode, at steps 1 to 3 the length's. -/
theorem lenientModeReachesOnlyTheImageStep : Obligations.LenientModeReachesOnlyTheImageStep := by
  intro s r rest hw hb hp ha
  refine ⟨fun hq hmode => ?_, fun hq hstrict hlen => ?_, fun q k hrow hne hq hlen => ?_⟩
  · have hk : recvStep? s.sstate = some .four := hq ▸ rfl
    have hd : decodeImageResponse s.lenient r = .ok (unpackImage r) := by
      rw [decodeImageResponse_eq, if_neg]
      rintro ⟨hl, hlen⟩
      rcases hmode with hm | hm
      · cases hl.symm.trans hm
      · exact hlen hm
    obtain ⟨t, ht⟩ := receiveData_is_next .four r (s.tick.takeRecv rest)
    obtain ⟨hsstate, -, hresult, hvalid, hread⟩ := receiveData_completes (s := s.tick.takeRecv rest) hd ht
    refine ⟨t, (step_receives hw hb hp hk ha).trans ht, hsstate, hresult, hvalid, unpackImage r, hread, fun i hi => ?_⟩
    rw [← Nat.not_lt]
    exact unpackImage_pixel r hi
  · have hk : recvStep? s.sstate = some .four := hq ▸ rfl
    have hd : decodeImageResponse s.lenient r = .error .truncatedFrame := by
      rw [decodeImageResponse_eq, if_pos ⟨hstrict, hlen⟩]
    obtain ⟨t, ht⟩ := receiveData_is_next .four r (s.tick.takeRecv rest)
    exact ⟨t, (step_receives hw hb hp hk ha).trans ht, receiveData_truncatedFrame (s := s.tick.takeRecv rest) hd ht⟩
  · have hk : recvStep? s.sstate = some k := hq ▸ (recvRows_spec hrow).1
    obtain ⟨t, ht⟩ := receiveData_is_next k r (s.tick.takeRecv rest)
    exact ⟨t, (step_receives hw hb hp hk ha).trans ht, receiveData_shortResponse hne hlen ht⟩

end Sys2Proof.Machine
end

section
/-! PROOFS. A whole CAPTURE: it computes what its pseudocode computes, and it ends (43_capture.md R160, R168). -/

namespace Sys2Proof.Machine

/-! ## Runs -/

theorem run_one {s t : State} (h : step s = .next t) : core.run 1 s = .next t := by
  simp only [Host.Core.run, core, h]

/-- A step, then a run. -/
theorem run_cons {n : Nat} {s u : State} {o : StepOutcome} (h : step s = .next u) (hu : core.run n u = o) :
    core.run (n + 1) s = o := by
  simp only [Host.Core.run, core, h]
  exact hu

/-! ## The two halves of a step, as steps of the machine -/

/-- The sequencer stands before the send of step `k`, and the host waits. -/
structure State.AtSend (s : State) (k : CaptureStep) : Prop where
  waits : s.HostWaits
  busy : s.status.busy = true
  phase : s.phase = .send
  step : sendStep? s.sstate = some k

/-- The sequencer stands before the receive of step `k`, and the host waits. -/
structure State.AtRecv (s : State) (k : CaptureStep) : Prop where
  waits : s.HostWaits
  busy : s.status.busy = true
  phase : s.phase = .recv
  step : recvStep? s.sstate = some k

/-- The machine has made the call `c` of a running CAPTURE; the answers still to come are `sends` and `recvs`. -/
structure State.Called (s : State) (c : Call) (sends : List SendOutcome) (recvs : List RecvOutcome) (t : State) :
    Prop where
  host : t.host = s.host
  lenient : t.lenient = s.lenient
  timeout : t.timeout = s.timeout
  trace : t.trace = s.trace ++ [c]
  sendAnswers : t.sendAnswers = sends
  recvAnswers : t.recvAnswers = recvs

theorem State.Called.hostWaits {s t : State} {c : Call} {sends : List SendOutcome} {recvs : List RecvOutcome}
    (h : s.Called c sends recvs t) (hw : s.HostWaits) : t.HostWaits := by
  rwa [State.HostWaits, h.host]

theorem State.SameButPosition.called {s u t : State} {c : Call} {sends : List SendOutcome} {recvs : List RecvOutcome}
    (h : u.SameButPosition t) (hu : s.Called c sends recvs u) : s.Called c sends recvs t :=
  ⟨h.host.trans hu.host, h.lenient.trans hu.lenient, h.timeout.trans hu.timeout, h.trace.trans hu.trace,
    h.sendAnswers.trans hu.sendAnswers, h.recvAnswers.trans hu.recvAnswers⟩

theorem callSend_called (k : CaptureStep) (s : State) (rest : List SendOutcome) :
    s.Called (.send (wireFrame k)) rest s.recvAnswers ((s.tick.takeSend rest).callSend k) := by
  constructor <;> simp [callSend_trace]

theorem sent_sstate_congr (k : CaptureStep) {u s : State} (h : u.sstate = s.sstate) :
    (u.sent k).sstate = (s.sent k).sstate := by
  cases k with
  | one | two | three => exact h
  | four => rfl

/-- The send of a step, answered: its receive is next, or the session has failed (R161). -/
theorem step_atSend {s : State} {k : CaptureStep} {a : SendOutcome} {rest : List SendOutcome} (hs : s.AtSend k)
    (ha : s.sendAnswers = a :: rest) :
    ∃ t, step s = .next t ∧ s.Called (.send (wireFrame k)) rest s.recvAnswers t ∧ t.status.txValid = true ∧
      (a = .ok → t.AtRecv k ∧ t.sstate = (s.sent k).sstate) ∧ (a = .error → t.FailedWith .transportFailure k) := by
  obtain ⟨t, ht, hsame, hok, herror⟩ := transmit_answered k (s := s.tick) ha
  have hcalled := hsame.called (callSend_called k s rest)
  have hsstate : ((s.tick.takeSend rest).callSend k).sstate = s.sstate := by simp
  refine ⟨t, ?_, hcalled, ?_, fun h => ?_, fun h => ?_⟩
  · rw [step_sends hs.waits hs.busy hs.phase hs.step (by simp [ha]), ht]
  · rw [hsame.txValid, State.callSend_status]
  · obtain rfl := hok h
    refine ⟨⟨hcalled.hostWaits hs.waits, ?_, State.sent_phase _ k, recvStep?_sent ?_⟩, sent_sstate_congr k hsstate⟩
    · simpa using hs.busy
    · rw [hsstate]
      exact hs.step
  · obtain rfl := herror h
    exact failStep_failedWith _ _ _

theorem receiveData_called {k : CaptureStep} {r : List Byte} {s t : State} (h : receiveData k r s = .next t) :
    s.Called (.recv (expectedLen k) s.timeout) s.sendAnswers s.recvAnswers t ∧
      t.status.txValid = s.status.txValid := by
  obtain ⟨htrace, hrecv, hsend⟩ := receiveData_calls h
  obtain ⟨hlenient, htimeout⟩ := receiveData_sameConfig h
  have hframe : t.host = s.host ∧ t.status.txValid = s.status.txValid := by
    by_cases hk : k = .four
    · subst hk
      rw [receiveData_image] at h
      split at h <;> (cases h; exact ⟨rfl, rfl⟩)
    · rw [receiveData_ack hk] at h
      split at h <;> (cases h; exact ⟨rfl, rfl⟩)
  exact ⟨⟨hframe.1, hlenient, htimeout, htrace, hsend, hrecv⟩, hframe.2⟩

/-- The receive of a step, answered with data: the receive half of that step. -/
theorem step_atRecv_data {s : State} {k : CaptureStep} {r : List Byte} {rest : List RecvOutcome} (hs : s.AtRecv k)
    (ha : s.recvAnswers = .data r :: rest) :
    ∃ t, step s = .next t ∧ s.Called (.recv (expectedLen k) s.timeout) s.sendAnswers rest t ∧
      t.status.txValid = s.status.txValid ∧ receiveData k r (s.tick.takeRecv rest) = .next t := by
  obtain ⟨t, ht⟩ := receiveData_is_next k r (s.tick.takeRecv rest)
  obtain ⟨hcalled, htx⟩ := receiveData_called ht
  exact ⟨t, (step_receives hs.waits hs.busy hs.phase hs.step ha).trans ht,
    ⟨hcalled.host, hcalled.lenient, hcalled.timeout, hcalled.trace, hcalled.sendAnswers, hcalled.recvAnswers⟩, htx, ht⟩

/-- Seven bytes at steps 1 to 3: the next step's send is next (R161). -/
theorem atSend_of_receiveData {k k' : CaptureStep} {r : List Byte} {rest : List RecvOutcome} {s t : State}
    (hs : s.AtRecv k) (hcalled : s.Called (.recv (expectedLen k) s.timeout) s.sendAnswers rest t) (hk : k ≠ .four)
    (hr : r.length = 7) (hk' : sendStep? (nextState k) = some k')
    (ht : receiveData k r (s.tick.takeRecv rest) = .next t) : t.AtSend k' := by
  obtain ⟨hsstate, hphase, hstatus⟩ := receiveData_advances hk hr ht
  exact ⟨hcalled.hostWaits hs.waits, hstatus ▸ hs.busy, hphase, hsstate ▸ hk'⟩

/-- Data that leaves the session running is seven bytes at steps 1 to 3. -/
theorem receiveData_running {k : CaptureStep} {r : List Byte} {s t : State} (h : receiveData k r s = .next t)
    (hrun : t.status.busy = true) : k ≠ .four ∧ r.length = 7 := by
  by_cases hk : k = .four
  · subst hk
    rw [receiveData_image] at h
    split at h <;> (cases h; cases hrun)
  · rw [receiveData_ack hk] at h
    split at h
    · exact ⟨hk, ‹_›⟩
    · cases h
      cases hrun

/-- The error that a receive without data ends the session with (R162, R164). -/
def RecvOutcome.failure : RecvOutcome → Option FceError
  | .data _ => none
  | .timeout => some .timeout
  | .error => some .transportFailure

theorem step_atRecv_failure {s : State} {k : CaptureStep} {a : RecvOutcome} {e : FceError} {rest : List RecvOutcome}
    (hs : s.AtRecv k) (ha : s.recvAnswers = a :: rest) (he : a.failure = some e) :
    ∃ t, step s = .next t ∧ s.Called (.recv (expectedLen k) s.timeout) s.sendAnswers rest t ∧
      t.status.txValid = s.status.txValid ∧ t.FailedWith e k := by
  have hfail := step_receive_fails hs.waits hs.busy hs.phase hs.step (rest := rest)
  have hstep : step s = .next ((s.tick.takeRecv rest).recvFailed e k) := by
    cases a with
    | data r => cases he
    | timeout => cases he; exact hfail.1 ha
    | error => cases he; exact hfail.2 ha
  have hsame := failStep_sameButPosition e k ((s.tick.takeRecv rest).callRecv k)
  exact ⟨_, hstep, ⟨hsame.host, hsame.lenient, hsame.timeout, hsame.trace, hsame.sendAnswers, hsame.recvAnswers⟩,
    hsame.txValid, recvFailed_failedWith e k _⟩

/-! ## The pseudocode, exchange by exchange -/

/-- The answer `a` to the receive of step `k` settles the result of the CAPTURE (R160). -/
inductive Settles (lenient : Bool) : CaptureStep → RecvOutcome → CaptureResult → Prop where
  | noData {k : CaptureStep} {a : RecvOutcome} {e : FceError} (he : a.failure = some e) :
      Settles lenient k a (.captureError e k)
  | shortResponse {k : CaptureStep} {r : List Byte} (hk : k ≠ .four) (hr : r.length ≠ 7) :
      Settles lenient k (.data r) (.captureError .shortResponse k)
  | truncatedFrame {r : List Byte} (hd : decodeImageResponse lenient r = .error .truncatedFrame) :
      Settles lenient .four (.data r) (.captureError .truncatedFrame .four)
  | image {r out : List Byte} (hd : decodeImageResponse lenient r = .ok out) :
      Settles lenient .four (.data r) (.sensorFrame out)

/-- One exchange of the loop of R160 settles the result, or hands over to the next step. -/
inductive Exchange (lenient : Bool) (T : BitVec 32) (k : CaptureStep) (ks : List CaptureStep) (tr : List Call) :
    List SendOutcome → List RecvOutcome → CaptureResult → List Call → Prop where
  | sendError (sends : List SendOutcome) (recvs : List RecvOutcome) :
      Exchange lenient T k ks tr (.error :: sends) recvs (.captureError .transportFailure k)
        (tr ++ [Call.send (wireFrame k)])
  | settled {a : RecvOutcome} {res : CaptureResult} (h : Settles lenient k a res) (sends : List SendOutcome)
      (recvs : List RecvOutcome) :
      Exchange lenient T k ks tr (.ok :: sends) (a :: recvs) res
        (tr ++ [Call.send (wireFrame k), .recv (expectedLen k) T])
  | acknowledged {r : List Byte} {sends : List SendOutcome} {recvs : List RecvOutcome} {res : CaptureResult}
      {tr' : List Call} (hk : k ≠ .four) (hr : r.length = 7)
      (h : captureFrom lenient T ks (tr ++ [Call.send (wireFrame k), .recv (expectedLen k) T]) sends recvs =
        some (res, tr')) :
      Exchange lenient T k ks tr (.ok :: sends) (.data r :: recvs) res tr'

section Loop

variable {l : Bool} {T : BitVec 32} {ks : List CaptureStep} {tr : List Call} {r : List Byte}
  {sends : List SendOutcome} {recvs : List RecvOutcome}

theorem captureFrom_image_ok {out : List Byte} (hd : decodeImageResponse l r = .ok out) :
    captureFrom l T (.four :: ks) tr (.ok :: sends) (.data r :: recvs) =
      some (.sensorFrame out, tr ++ [Call.send (wireFrame .four), .recv (expectedLen .four) T]) := by
  simp only [captureFrom, hd]

theorem captureFrom_image_error {e : FceError} (hd : decodeImageResponse l r = .error e) :
    captureFrom l T (.four :: ks) tr (.ok :: sends) (.data r :: recvs) =
      some (.captureError e .four, tr ++ [Call.send (wireFrame .four), .recv (expectedLen .four) T]) := by
  simp only [captureFrom, hd]

theorem captureFrom_ack {k : CaptureStep} (hk : k ≠ .four) :
    captureFrom l T (k :: ks) tr (.ok :: sends) (.data r :: recvs) =
      if r.length = 7 then captureFrom l T ks (tr ++ [Call.send (wireFrame k), .recv (expectedLen k) T]) sends recvs
      else some (.captureError .shortResponse k, tr ++ [Call.send (wireFrame k), .recv (expectedLen k) T]) := by
  cases k with
  | four => exact absurd rfl hk
  | one | two | three =>
    simp only [captureFrom, decodeAcknowledgement_eq]
    by_cases hr : r.length = 7
    · simp only [if_pos hr]
    · simp only [if_neg hr]

/-- INVERSION OF THE PSEUDOCODE'S LOOP. -/
theorem captureFrom_exchange {k : CaptureStep} {res : CaptureResult} {tr' : List Call}
    (h : captureFrom l T (k :: ks) tr sends recvs = some (res, tr')) :
    Exchange l T k ks tr sends recvs res tr' := by
  match sends, recvs with
  | [], _ => cases h
  | .error :: sends, recvs => cases h; exact .sendError sends recvs
  | .ok :: _, [] => cases h
  | .ok :: sends, .timeout :: recvs => cases h; exact .settled (.noData rfl) sends recvs
  | .ok :: sends, .error :: recvs => cases h; exact .settled (.noData rfl) sends recvs
  | .ok :: sends, .data r :: recvs =>
    by_cases hk : k = .four
    · subst hk
      rcases decodeImageResponse_cases l r with hd | hd
      · rw [captureFrom_image_error hd] at h
        cases h
        exact .settled (.truncatedFrame hd) sends recvs
      · rw [captureFrom_image_ok hd] at h
        cases h
        exact .settled (.image hd) sends recvs
    · rw [captureFrom_ack hk] at h
      split at h
      · exact .acknowledged hk ‹_› h
      · cases h
        exact .settled (.shortResponse hk ‹_›) sends recvs

end Loop

/-! ## The machine follows the pseudocode -/

/-- The steps still to come where the next call is the send of `k`. -/
def stepsFrom : CaptureStep → List CaptureStep
  | .one => [.one, .two, .three, .four]
  | .two => [.two, .three, .four]
  | .three => [.three, .four]
  | .four => [.four]

/-- After the acknowledgement of `k` the machine and the pseudocode go on with the same step (R160, R161). -/
theorem stepsFrom_eq_cons {k k' : CaptureStep} {ks : List CaptureStep} (h : stepsFrom k = k' :: ks) :
    k' = k ∧ (k ≠ .four → ∃ k'', sendStep? (nextState k) = some k'' ∧ stepsFrom k'' = ks) := by
  cases k <;> cases h
  case four => exact ⟨rfl, fun hne => absurd rfl hne⟩
  all_goals exact ⟨rfl, fun _ => ⟨_, rfl, rfl⟩⟩

/-- From `s` the CAPTURE has ended in `t`, with the result and the trace of the pseudocode. -/
structure State.CapturedAs (s t : State) (res : CaptureResult) (tr : List Call) : Prop where
  idle : t.status.busy = false
  host : t.host = s.host
  txValid : t.status.txValid = true
  trace : t.trace = tr
  shows : t.Shows res

theorem State.FailedWith.shows {t : State} {e : FceError} {k : CaptureStep} (h : t.FailedWith e k) :
    t.Shows (.captureError e k) := by
  obtain ⟨hsstate, -, hresult, hstep, hvalid⟩ := h
  exact ⟨hsstate, hresult, hstep, hvalid⟩

theorem State.FailedWith.idle {t : State} {e : FceError} {k : CaptureStep} (h : t.FailedWith e k) :
    t.status.busy = false := h.2.1

/-- The image decoded is the raster the registers show. -/
theorem receiveData_shows {r out : List Byte} {s t : State} (hd : decodeImageResponse s.lenient r = .ok out)
    (ht : receiveData .four r s = .next t) : t.status.busy = false ∧ t.Shows (.sensorFrame out) := by
  obtain ⟨hsstate, hidle, hresult, hvalid, hread⟩ := receiveData_completes hd ht
  have hstep : t.status.errStep = none := by
    rw [receiveData_image] at ht
    split at ht <;> cases ht
    · cases hvalid
    · rfl
  exact ⟨hidle, hsstate, hresult, hstep, hvalid, hread⟩

/-- An answer that settles the result ends the session with it (R161). -/
theorem step_atRecv_settles {s : State} {k : CaptureStep} {a : RecvOutcome} {res : CaptureResult}
    {rest : List RecvOutcome} (hs : s.AtRecv k) (ha : s.recvAnswers = a :: rest) (h : Settles s.lenient k a res) :
    ∃ t, step s = .next t ∧ s.Called (.recv (expectedLen k) s.timeout) s.sendAnswers rest t ∧
      t.status.txValid = s.status.txValid ∧ t.status.busy = false ∧ t.Shows res := by
  cases h with
  | noData he =>
    obtain ⟨t, ht, hcalled, htx, hfail⟩ := step_atRecv_failure hs ha he
    exact ⟨t, ht, hcalled, htx, hfail.idle, hfail.shows⟩
  | shortResponse hk hr =>
    obtain ⟨t, ht, hcalled, htx, hdata⟩ := step_atRecv_data hs ha
    have hfail := receiveData_shortResponse hk hr hdata
    exact ⟨t, ht, hcalled, htx, hfail.idle, hfail.shows⟩
  | truncatedFrame hd =>
    obtain ⟨t, ht, hcalled, htx, hdata⟩ := step_atRecv_data hs ha
    have hfail := receiveData_truncatedFrame (s := s.tick.takeRecv rest) hd hdata
    exact ⟨t, ht, hcalled, htx, hfail.idle, hfail.shows⟩
  | image hd =>
    obtain ⟨t, ht, hcalled, htx, hdata⟩ := step_atRecv_data hs ha
    exact ⟨t, ht, hcalled, htx, receiveData_shows (s := s.tick.takeRecv rest) hd hdata⟩

/-- The trace after both calls of step `k`, made in `s` and then in `u`. -/
theorem trace_of_two_calls {s u t : State} {k : CaptureStep} {sends sends' : List SendOutcome}
    {recvs recvs' : List RecvOutcome} (hu : s.Called (.send (wireFrame k)) sends recvs u)
    (ht : u.Called (.recv (expectedLen k) u.timeout) sends' recvs' t) :
    t.trace = s.trace ++ [Call.send (wireFrame k), .recv (expectedLen k) s.timeout] := by
  rw [ht.trace, hu.trace, hu.timeout, List.append_assoc]
  rfl

/-- What a run of the machine needs to show for a result of the pseudocode: at most `n` steps lead there. -/
def State.Captures (s : State) (n : Nat) (res : CaptureResult) (tr : List Call) : Prop :=
  ∃ m t, m ≤ n ∧ core.run m s = .next t ∧ s.CapturedAs t res tr

/-- After the send of step `k`, an exchange that settles the result ends the session with the next step, and one that
does not hands over to the loop `rest` says how to run. -/
theorem captures_of_exchange {s : State} {k : CaptureStep} {ks : List CaptureStep} {res : CaptureResult}
    {tr : List Call} (hs : s.AtSend k)
    (h : Exchange s.lenient s.timeout k ks s.trace s.sendAnswers s.recvAnswers res tr)
    (hrest : k ≠ .four → ∃ k', sendStep? (nextState k) = some k' ∧ ∀ t : State, t.AtSend k' →
      captureFrom t.lenient t.timeout ks t.trace t.sendAnswers t.recvAnswers = some (res, tr) →
      t.Captures (2 * ks.length) res tr) : s.Captures (2 * ks.length + 2) res tr := by
  generalize hsends : s.sendAnswers = sends, hrecvs : s.recvAnswers = recvs at h
  have hsent : ∀ rest, sends = .ok :: rest → ∃ u, step s = .next u ∧ u.AtRecv k ∧
      s.Called (.send (wireFrame k)) rest recvs u ∧ u.status.txValid = true := by
    intro rest hok
    obtain ⟨u, hstep, hcalled, htx, hrecv, -⟩ := step_atSend hs (hsends.trans hok)
    exact ⟨u, hstep, (hrecv rfl).1, hrecvs ▸ hcalled, htx⟩
  cases h with
  | sendError rest =>
    obtain ⟨t, hstep, hcalled, htx, -, hfail⟩ := step_atSend hs hsends
    exact ⟨1, t, by omega, run_one hstep, (hfail rfl).idle, hcalled.host, htx, hcalled.trace, (hfail rfl).shows⟩
  | settled hsettles rest =>
    obtain ⟨u, hsu, hu, hcalled, htx⟩ := hsent rest rfl
    obtain ⟨t, hut, hcalled', htx', hidle, hshows⟩ :=
      step_atRecv_settles hu hcalled.recvAnswers (hcalled.lenient.symm ▸ hsettles)
    exact ⟨2, t, by omega, run_cons hsu (run_one hut), hidle, hcalled'.host.trans hcalled.host, htx'.trans htx,
      trace_of_two_calls hcalled hcalled', hshows⟩
  | @acknowledged r rest rrest _ _ hk hr hloop =>
    obtain ⟨k', hk', hrun⟩ := hrest hk
    obtain ⟨u, hsu, hu, hcalled, htx⟩ := hsent rest rfl
    obtain ⟨t, hut, hcalled', htx', ht⟩ := step_atRecv_data hu hcalled.recvAnswers
    have hat : t.AtSend k' := atSend_of_receiveData hu hcalled' hk hr hk' ht
    have htl : captureFrom t.lenient t.timeout ks t.trace t.sendAnswers t.recvAnswers = some (res, tr) := by
      rw [hcalled'.lenient, hcalled.lenient, hcalled'.timeout, hcalled.timeout, trace_of_two_calls hcalled hcalled',
        hcalled'.sendAnswers, hcalled.sendAnswers, hcalled'.recvAnswers, hloop]
    obtain ⟨m, v, hm, hrunv, hv⟩ := hrun t hat htl
    exact ⟨m + 2, v, by omega, run_cons hsu (run_cons hut hrunv), hv.idle,
      hv.host.trans (hcalled'.host.trans hcalled.host), hv.txValid, hv.trace, hv.shows⟩

/-- A running CAPTURE before the send of step `k` ends as the loop over the steps from `k` on says, within two steps of
the machine for each. -/
theorem captures_of_captureFrom {res : CaptureResult} {tr : List Call} (ks : List CaptureStep) (s : State)
    (k : CaptureStep) (hs : s.AtSend k) (hks : stepsFrom k = ks)
    (h : captureFrom s.lenient s.timeout ks s.trace s.sendAnswers s.recvAnswers = some (res, tr)) :
    s.Captures (2 * ks.length) res tr := by
  induction ks generalizing s k with
  | nil => cases k <;> cases hks
  | cons k₀ ks ih =>
    obtain ⟨rfl, hnext⟩ := stepsFrom_eq_cons hks
    refine captures_of_exchange hs (captureFrom_exchange h) fun hk => ?_
    obtain ⟨k', hk', hks'⟩ := hnext hk
    exact ⟨k', hk', fun t ht hloop => ih t k' ht hks' hloop⟩

/-- Settles O34: the first step starts the session, and from there the machine follows the loop. -/
theorem captureMatchesItsPseudocode : Obligations.CaptureMatchesItsPseudocode := by
  intro s rest res tr hb hh h
  have hstart : step s = .next (s.afterEvent (.await :: rest)).startSession := by
    rw [step_issue hh hb, run_fetchWord (i := .capture) rfl]
    exact exec_capture_idle (s := s.afterEvent _) hb
  have hat : (s.afterEvent (.await :: rest)).startSession.AtSend .one := ⟨.inr ⟨rest, rfl⟩, rfl, rfl, rfl⟩
  obtain ⟨m, t, hm, hrun, ht⟩ := captures_of_captureFrom _ _ .one hat rfl h
  exact ⟨m + 1, t, Nat.succ_le_succ hm, run_cons hstart hrun, ht.idle, ht.host, ht.txValid, ht.trace, ht.shows⟩

/-! ## A CAPTURE ends -/

/-- The session is over (R161). -/
def State.Over (t : State) : Prop := t.status.busy = false ∧ (t.sstate = .complete ∨ t.sstate = .failed)

theorem State.Ended.over {t : State} (h : t.Ended) : t.Over := by
  rcases h with ⟨out, hsstate, hidle, -⟩ | ⟨e, k, hsstate, hidle, -⟩
  · exact ⟨hidle, .inl hsstate⟩
  · exact ⟨hidle, .inr hsstate⟩

/-- The host waits on a running CAPTURE that has made `n` of its eight calls, with answers for the rest of them. -/
structure State.Calling (s : State) (n : Nat) : Prop where
  waits : s.HostWaits
  busy : s.status.busy = true
  position : s.AtPosition
  calls : callsMade s.sstate s.phase = n
  sends : 4 ≤ s.sendAnswers.length + (n + 1) / 2
  recvs : 4 ≤ s.recvAnswers.length + n / 2

/-- Sends are the calls at even places, receives those at odd ones (R163). -/
theorem callsMade_send_even {q : SState} {k : CaptureStep} (h : sendStep? q = some k) :
    callsMade q .send % 2 = 0 ∧ callsMade q .send < 8 := by
  cases q <;> cases h <;> decide

theorem callsMade_recv_odd {q : SState} {k : CaptureStep} (h : recvStep? q = some k) :
    callsMade q .recv % 2 = 1 ∧ callsMade q .recv < 8 := by
  cases q <;> cases h <;> decide

/-- A position is before a send or before a receive (R161). -/
theorem State.Calling.atSend_or_atRecv {s : State} {n : Nat} (hs : s.Calling n) :
    (∃ k, s.AtSend k) ∨ ∃ k, s.AtRecv k := by
  rcases hs.position with ⟨hp, hk⟩ | ⟨hp, hk⟩
  · obtain ⟨k, hk⟩ := Option.isSome_iff_exists.mp hk
    exact .inl ⟨k, hs.waits, hs.busy, hp, hk⟩
  · obtain ⟨k, hk⟩ := Option.isSome_iff_exists.mp hk
    exact .inr ⟨k, hs.waits, hs.busy, hp, hk⟩

theorem State.AtSend.atPosition {s : State} {k : CaptureStep} (h : s.AtSend k) : s.AtPosition :=
  .inl ⟨h.phase, by rw [h.step]; rfl⟩

theorem State.AtRecv.atPosition {s : State} {k : CaptureStep} (h : s.AtRecv k) : s.AtPosition :=
  .inr ⟨h.phase, by rw [h.step]; rfl⟩

/-- The send is answered, and the session has ended or has made one call more. -/
theorem State.Calling.step_send {s : State} {n : Nat} {k : CaptureStep} (hs : s.Calling n) (hat : s.AtSend k) :
    ∃ t, step s = .next t ∧ n < 8 ∧ (t.Over ∨ t.Calling (n + 1)) := by
  have hcalls := hs.calls
  have hsends := hs.sends
  have hrecvs := hs.recvs
  rw [hat.phase] at hcalls
  obtain ⟨heven, hlt⟩ := hcalls ▸ callsMade_send_even hat.step
  obtain ⟨a, rest, ha⟩ := List.exists_cons_of_length_pos (l := s.sendAnswers) (by omega)
  rw [ha, List.length_cons] at hsends
  obtain ⟨t, ht, hcalled, -, hok, herror⟩ := step_atSend hat ha
  refine ⟨t, ht, hlt, ?_⟩
  cases a with
  | error => exact .inl (State.Ended.over (.inr ⟨_, _, herror rfl⟩))
  | ok =>
    obtain ⟨hrecv, hsstate⟩ := hok rfl
    refine .inr ⟨hrecv.waits, hrecv.busy, hrecv.atPosition, ?_, ?_, ?_⟩
    · rw [hrecv.phase, hsstate, callsMade_sent hat.step, hcalls]
    · rw [hcalled.sendAnswers]
      omega
    · rw [hcalled.recvAnswers]
      omega

/-- The receive is answered, and the session has ended or has made one call more. -/
theorem State.Calling.step_recv {s : State} {n : Nat} {k : CaptureStep} (hs : s.Calling n) (hat : s.AtRecv k) :
    ∃ t, step s = .next t ∧ n < 8 ∧ (t.Over ∨ t.Calling (n + 1)) := by
  have hcalls := hs.calls
  have hsends := hs.sends
  have hrecvs := hs.recvs
  rw [hat.phase] at hcalls
  obtain ⟨hodd, hlt⟩ := hcalls ▸ callsMade_recv_odd hat.step
  obtain ⟨a, rest, ha⟩ := List.exists_cons_of_length_pos (l := s.recvAnswers) (by omega)
  rw [ha, List.length_cons] at hrecvs
  cases he : a.failure with
  | some e =>
    obtain ⟨t, ht, -, -, hfail⟩ := step_atRecv_failure hat ha he
    exact ⟨t, ht, hlt, .inl (State.Ended.over (.inr ⟨_, _, hfail⟩))⟩
  | none =>
    cases a with
    | timeout | error => cases he
    | data r =>
      obtain ⟨t, ht, hcalled, -, hdata⟩ := step_atRecv_data hat ha
      refine ⟨t, ht, hlt, ?_⟩
      rcases receiveData_ends (s := s.tick.takeRecv rest) hat.busy hdata with hrun | hend
      · obtain ⟨hne, hr⟩ := receiveData_running hdata hrun
        obtain ⟨k', hk'⟩ := Option.isSome_iff_exists.mp (sendStep?_nextState hne)
        have hsend := atSend_of_receiveData hat hcalled hne hr hk' hdata
        refine .inr ⟨hsend.waits, hrun, hsend.atPosition, ?_, ?_, ?_⟩
        · rw [hsend.phase, (receiveData_advances hne hr hdata).1, callsMade_nextState hat.step hne, hcalls]
        · rw [hcalled.sendAnswers]
          omega
        · rw [hcalled.recvAnswers]
          omega
      · exact .inl hend.over

theorem State.Calling.step_next {s : State} {n : Nat} (hs : s.Calling n) :
    ∃ t, step s = .next t ∧ n < 8 ∧ (t.Over ∨ t.Calling (n + 1)) := by
  rcases hs.atSend_or_atRecv with ⟨k, hat⟩ | ⟨k, hat⟩
  · exact hs.step_send hat
  · exact hs.step_recv hat

/-- A CAPTURE that has made `n` of its eight calls ends within the `8 - n` that are left. -/
theorem run_calling (m : Nat) : ∀ (s : State) (n : Nat), s.Calling n → 8 - n ≤ m →
    ∃ j t, j ≤ m ∧ core.run j s = .next t ∧ t.Over := by
  induction m with
  | zero =>
    intro s n hs hm
    obtain ⟨-, -, hlt, -⟩ := hs.step_next
    omega
  | succ m ih =>
    intro s n hs hm
    obtain ⟨t, ht, -, hover | hcalling⟩ := hs.step_next
    · exact ⟨1, t, by omega, run_one ht, hover⟩
    · obtain ⟨j, v, hj, hrun, hv⟩ := ih t (n + 1) hcalling (by omega)
      exact ⟨j + 1, v, by omega, run_cons ht hrun, hv⟩

/-- Settles O35: every step makes one of the eight calls of R163's list (`State.Calling.step_next`). -/
theorem captureEndsWithinEightCalls : Obligations.CaptureEndsWithinEightCalls := by
  intro s hcoh hw hb hsends hrecvs
  have hcalling : s.Calling (callsMade s.sstate s.phase) :=
    ⟨hw, hb, (hcoh.running hb).2, rfl, by omega, by omega⟩
  exact run_calling 8 s _ hcalling (by omega)

end Sys2Proof.Machine
end
